-- ==== Sys2Proof/Word.lean ====
section
/-! DEFINITION. The bit-vector types of the machine (00_scope.md R6, R9): what the spec itself treats as bits. -/

namespace Sys2Proof

/-- A byte of memory, a general register, DT or ST (00_scope.md R6, REG_BITS). -/
abbrev Byte := BitVec 8

/-- A 16-bit quantity: an instruction word, I, PC, a call-stack entry (00_scope.md R6). -/
abbrev Word := BitVec 16

/-- A register index, the x or y field of an instruction word (30_encoding.md R71). -/
abbrev RegIx := BitVec 4

/-- A 12-bit absolute address, the nnn field of an instruction word (30_encoding.md R71). -/
abbrev Addr := BitVec 12

end Sys2Proof
end

