-- ==== Sys2Proof/Config.lean ====
section
/-! DEFINITION. The fixed parameters (00_scope.md R6), the open parameters (R7) and the free values (R8). A constant that
is opaque has no body: nothing can be proved about its value, so a claim holds for every value of it. -/

namespace Sys2Proof

/-! ### Fixed parameters (00_scope.md R6) -/

/-- The highest legal byte address. -/
def Config.addrMax : Nat := 0xFFF

/-- The load address and the reset value of PC. -/
def Config.progBase : Nat := 0x200

/-- The length of the largest ROM that can be loaded. -/
def Config.romMax : Nat := 3584

/-- The number of call-stack entries. -/
def Config.stackDepth : Nat := 16

/-- The number of bytes of the font, 16 glyphs of 5 bytes. -/
def Config.fontLen : Nat := 80

/-- The number of bytes of one glyph. -/
def Config.glyphBytes : Nat := 5

/-! ### Open parameters (00_scope.md R7; decisions D3, D4; log entry 3) -/

/-- FONT_BASE, any address from 0 to 0x1B0, so that the 80 bytes end at or below 0x1FF. -/
opaque Config.fontBase : Fin 433

/-- FONT_DATA, as a function of the index of the byte; only the indices 0 to 79 are used. -/
opaque Config.fontByte : Nat → Byte

/-! ### Free values: the inputs the host presents to a Step, as functions of the number of Steps made (log entry 2) -/

/-- `key_level[15:0]`, bit k set when key k is held (60_exceptions.md R211, R216). -/
opaque Config.keyLevel : Nat → BitVec 16

/-- The key event: none, or the key pressed (60_exceptions.md R217). -/
opaque Config.keyEvent : Nat → Option (BitVec 4)

/-- The random byte (60_exceptions.md R218). -/
opaque Config.rand : Nat → Byte

/-! ### Free values: results the spec leaves unspecified -/

/-- What Fx29 writes to I when Vx is above 15 (42_index_memory.md R152, decision D5; log entry 4). -/
opaque Config.glyphDraw : Nat → Word

/-- Whether Ex9E or ExA1 skips when Vx is above 15 (44_keypad_timers.md R180, R181, decision D6; log entry 5). -/
opaque Config.skipDraw : Nat → Bool

end Sys2Proof
end

