-- ==== Sys2Proof/Syntax.lean ====
section
/-! DEFINITION. The instructions: one constructor for each of the 34 rows of spec/opcode_table.json, in the order of
30_encoding.md R76. Operands have exactly the width of their field (R71), so no ill-formed operand can be written. -/

namespace Sys2Proof

/-- The 34 instructions (30_encoding.md R76). The y field of 8xy6 and 8xyE is decoded and ignored (R80): it is kept as an
operand, so that an instruction stands for exactly one word. -/
inductive Instr where
  /-- 00E0: clear the framebuffer. -/
  | cls
  /-- 00EE: return. -/
  | ret
  /-- 1nnn: jump. -/
  | jp (nnn : Addr)
  /-- 2nnn: call. -/
  | call (nnn : Addr)
  /-- 3xkk: skip if Vx = kk. -/
  | seImm (x : RegIx) (kk : Byte)
  /-- 4xkk: skip if Vx ≠ kk. -/
  | sneImm (x : RegIx) (kk : Byte)
  /-- 5xy0: skip if Vx = Vy. -/
  | seReg (x y : RegIx)
  /-- 6xkk: load immediate. -/
  | ldImm (x : RegIx) (kk : Byte)
  /-- 7xkk: add immediate, no flag. -/
  | addImm (x : RegIx) (kk : Byte)
  /-- 8xy0: move. -/
  | ldReg (x y : RegIx)
  /-- 8xy1: bitwise or. -/
  | orReg (x y : RegIx)
  /-- 8xy2: bitwise and. -/
  | andReg (x y : RegIx)
  /-- 8xy3: bitwise exclusive or. -/
  | xorReg (x y : RegIx)
  /-- 8xy4: add, VF is the carry. -/
  | addReg (x y : RegIx)
  /-- 8xy5: subtract, VF is 1 when there is no borrow. -/
  | sub (x y : RegIx)
  /-- 8xy6: shift right by one; y is ignored. -/
  | shr (x y : RegIx)
  /-- 8xy7: subtract the other way. -/
  | subn (x y : RegIx)
  /-- 8xyE: shift left by one; y is ignored. -/
  | shl (x y : RegIx)
  /-- 9xy0: skip if Vx ≠ Vy. -/
  | sneReg (x y : RegIx)
  /-- Annn: load I. -/
  | ldI (nnn : Addr)
  /-- Bnnn: jump to nnn + V0. -/
  | jpV0 (nnn : Addr)
  /-- Cxkk: random byte and kk. -/
  | rnd (x : RegIx) (kk : Byte)
  /-- Dxyn: draw a sprite. -/
  | drw (x y : RegIx) (n : BitVec 4)
  /-- Ex9E: skip if the key is pressed. -/
  | skp (x : RegIx)
  /-- ExA1: skip if the key is not pressed. -/
  | sknp (x : RegIx)
  /-- Fx07: read the delay timer. -/
  | ldVxDt (x : RegIx)
  /-- Fx0A: wait for a key. -/
  | ldVxK (x : RegIx)
  /-- Fx15: write the delay timer. -/
  | ldDtVx (x : RegIx)
  /-- Fx18: write the sound timer. -/
  | ldStVx (x : RegIx)
  /-- Fx1E: add to I. -/
  | addI (x : RegIx)
  /-- Fx29: I becomes the address of a glyph. -/
  | ldF (x : RegIx)
  /-- Fx33: store decimal digits. -/
  | ldB (x : RegIx)
  /-- Fx55: store V0 to Vx. -/
  | ldMemVx (x : RegIx)
  /-- Fx65: load V0 to Vx. -/
  | ldVxMem (x : RegIx)
  deriving DecidableEq, Repr

end Sys2Proof
end

