-- ==== Sys2Proof/WellFormed.lean ====
section
/-! DEFINITION. Well-formedness. Every `Instr` is well formed by its type: each operand has the width of its field
(30_encoding.md R71), and the spec forbids no operand value. What can be ill formed is the byte sequence given to Load. -/

namespace Sys2Proof

/-- Every operand value of every format is legal (30_encoding.md R72, R73), and the types admit no other. -/
def Instr.wf (i : Instr) : Bool :=
  match i with
  | .cls | .ret => true
  | .jp _ | .call _ | .ldI _ | .jpV0 _ => true
  | .seImm _ _ | .sneImm _ _ | .ldImm _ _ | .addImm _ _ | .rnd _ _ => true
  | .seReg _ _ | .ldReg _ _ | .orReg _ _ | .andReg _ _ | .xorReg _ _ | .addReg _ _ => true
  | .sub _ _ | .shr _ _ | .subn _ _ | .shl _ _ | .sneReg _ _ => true
  | .drw _ _ _ => true
  | .skp _ | .sknp _ | .ldVxDt _ | .ldVxK _ | .ldDtVx _ | .ldStVx _ | .addI _ | .ldF _ => true
  | .ldB _ | .ldMemVx _ | .ldVxMem _ => true

/-- Check 1 of a ROM: it is not empty (70_reset_and_hazards.md R243). -/
def romNonempty (rom : List Byte) : Bool := rom.length != 0

/-- Check 2 of a ROM: it fits above 0x200 (70_reset_and_hazards.md R243). -/
def romFits (rom : List Byte) : Bool := decide (rom.length ≤ Config.romMax)

/-- The ROMs Load accepts: 1 to 3584 bytes (20_memory.md R64). -/
def romWf (rom : List Byte) : Bool := romNonempty rom && romFits rom

end Sys2Proof
end

