-- ==== Sys2Proof/Machine/State.lean ====
section
/-! DEFINITION. The state of the machine as plain data (10_state.md R20 to R36, the ports of 60_exceptions.md R211), the
faults and refusals, and the state after reset (10_state.md R39). -/

namespace Sys2Proof.Machine

/-- STATUS (10_state.md R34). -/
inductive Status where
  | running
  | faulted
  deriving DecidableEq, Repr

/-- The fatal faults (60_exceptions.md R200, R201), each with the value FINFO receives. The operation that finds one raises
it, and the Step TAKES it (`State.takeFault`, 60_exceptions.md R203): a next state with STATUS = Faulted. No meaning and
no step therefore ends in `Outcome.fault` (log entry 6). -/
inductive Fault where
  /-- Raised by a fetch at PC > 0xFFE and by Dxyn, Fx33, Fx55, Fx65 whose range passes 0xFFF; the lowest out-of-range
  address. Safe: the spec's own effect, taken as a next state. -/
  | memoryOutOfRange (addr : Word)
  /-- Raised by 2nnn when SP = 16; the PC of the 2nnn. Safe: the spec's own effect, taken as a next state. -/
  | stackOverflow (pc : Word)
  /-- Raised by 00EE when SP = 0; the PC of the 00EE. Safe: the spec's own effect, taken as a next state. -/
  | stackUnderflow (pc : Word)
  deriving DecidableEq, Repr

/-- What the model gives no meaning to. -/
inductive Refusal where
  /-- Raised by an arm of `exec` for an instruction not reached yet; no arm raises it now. Safe: the model stops. -/
  | notModelled (mnemonic : String)
  /-- Raised by the host operation Load issued at any time but once after a Reset and before a Step
  (70_reset_and_hazards.md R242, "a model refuses it"). No instruction raises it. Safe: the model stops. -/
  | loadOutsideInterface
  deriving DecidableEq, Repr

/-- The result of a Step (60_exceptions.md R210). -/
inductive StepOutcome where
  | ok
  | waitingForKey
  | decodeFault (pc word : Word)
  | fatal (code : BitVec 3) (info : Word)
  deriving DecidableEq, Repr

/-- The result of a Load (60_exceptions.md R201, R210). -/
inductive LoadOutcome where
  | ok
  | romEmpty
  | romTooLarge (len : Nat)
  deriving DecidableEq, Repr

/-- The inputs of a Step (60_exceptions.md R211, R212). -/
structure Inputs where
  /-- `key_level[15:0]`: bit k is set when key k is held (R216). -/
  keyLevel : BitVec 16
  /-- `key_evt_valid` and `key_evt_code` (R217). -/
  keyEvent : Option (BitVec 4)
  /-- `rand[7:0]` (R218). -/
  rand : Byte
  deriving DecidableEq, Repr

/-- Memory: the (address, byte) pairs that differ from the reset contents, in one canonical form. -/
abbrev Memory := List Host.Cell

/-- The framebuffer FB (10_state.md R32): 32 rows, numbered by y, of 64 pixels, numbered by x. -/
abbrev Framebuffer := Vector (Vector Bool 64) 32

/-- The state (10_state.md R20), the ports (60_exceptions.md R211), and two fields of the model's own. -/
structure State where
  /-- MEM (20_memory.md R50). -/
  mem : Memory
  /-- V0 to VF (10_state.md R21). -/
  v : Vector Byte 16
  /-- I (10_state.md R23). -/
  i : Word
  /-- PC (10_state.md R24). -/
  pc : Word
  /-- SP, the number of live entries, 0 to 16 (10_state.md R26). -/
  sp : Fin 17
  /-- STACK (10_state.md R27). -/
  stack : Vector Word 16
  /-- DT (10_state.md R30). -/
  dt : Byte
  /-- ST (10_state.md R31). -/
  st : Byte
  /-- FB (10_state.md R32). -/
  fb : Framebuffer
  /-- DIRTY (10_state.md R33). -/
  dirty : Bool
  /-- STATUS (10_state.md R34). -/
  status : Status
  /-- FCAUSE (10_state.md R35). -/
  fcause : BitVec 3
  /-- FINFO (10_state.md R35). -/
  finfo : Word
  /-- DF (10_state.md R36). -/
  df : Bool
  /-- DFWORD (10_state.md R36). -/
  dfword : Word
  /-- DFPC (10_state.md R36). -/
  dfpc : Word
  /-- Input ports: what the host presents to the next Step (60_exceptions.md R211; log entry 2). -/
  inp : Inputs
  /-- Output port: the outcome of the last Step (60_exceptions.md R211; log entry 8). -/
  outcome : StepOutcome
  /-- Output port: the outcome of the last Load (60_exceptions.md R211; log entry 8). -/
  loadOutcome : LoadOutcome
  /-- Output port: the result of the last Tick (60_exceptions.md R211; log entry 8). -/
  beep : Bool
  /-- The model's own: the number of Steps made, to which the free values of Config are applied (log entry 2). -/
  draws : Nat
  /-- The model's own: no Step and no Load since the last Reset (70_reset_and_hazards.md R242; log entry 9). -/
  loadOpen : Bool
  deriving DecidableEq, Repr

/-- The state after construction or Reset (10_state.md R39). The ports and the model's own fields have no value in the
spec: DESIGN CHOICE, log entries 2, 8 and 9. Memory lists nothing: an unlisted address reads as its reset contents. -/
def State.reset : State where
  mem := []
  v := Vector.replicate 16 0
  i := 0
  pc := 0x200
  sp := 0
  stack := Vector.replicate 16 0
  dt := 0
  st := 0
  fb := Vector.replicate 32 (Vector.replicate 64 false)
  dirty := false
  status := .running
  fcause := 0
  finfo := 0
  df := false
  dfword := 0
  dfpc := 0
  inp := { keyLevel := 0, keyEvent := none, rand := 0 }
  outcome := .ok
  loadOutcome := .ok
  beep := false
  draws := 0
  loadOpen := true

end Sys2Proof.Machine
end

