-- ==== Sys2Proof/Machine/Ops.lean ====
section
/-! DEFINITION. The named operations over memory, registers, the call stack and the framebuffer; the ends of an
instruction; taking a fault; Reset. -/

namespace Sys2Proof.Machine

/-! ### Memory (20_memory.md) -/

/-- What an unlisted address reads as: the reset contents of 10_state.md R39, the font at FONT_BASE and 0 elsewhere
(20_memory.md R52, R55; log entries 3 and 15). -/
def unlisted (a : Nat) : Byte :=
  if Config.progBase ≤ a then 0
  else if Config.fontBase.val ≤ a ∧ a < Config.fontBase.val + Config.fontLen then
    Config.fontByte (a - Config.fontBase.val)
  else 0

/-- One byte of memory (20_memory.md R50). -/
def Memory.read : Memory → Nat → Byte
  | [], a => unlisted a
  | (k, b) :: m, a => if a = k then b else Memory.read m a

/-- List the byte at its place. -/
def Memory.put (a : Nat) (b : Byte) : Memory → Memory
  | [] => [(a, b)]
  | (k, c) :: m => if a < k then (a, b) :: (k, c) :: m else if a = k then (a, b) :: m else (k, c) :: Memory.put a b m

/-- Unlist an address. -/
def Memory.remove (a : Nat) : Memory → Memory
  | [] => []
  | (k, c) :: m => if a < k then (k, c) :: m else if a = k then m else (k, c) :: Memory.remove a m

/-- Write one byte; an address that then holds its reset contents is unlisted, which keeps the canonical form. -/
def Memory.write (m : Memory) (a : Nat) (b : Byte) : Memory :=
  if b = unlisted a then Memory.remove a m else Memory.put a b m

/-- Store bytes at ascending addresses, the first at the lowest (20_memory.md R54). -/
def Memory.store : Memory → Nat → List Byte → Memory
  | m, _, [] => m
  | m, a, b :: bs => Memory.store (m.write a b) (a + 1) bs

/-- Load bytes from ascending addresses (20_memory.md R54). -/
def Memory.load (m : Memory) (a : Nat) : Nat → List Byte
  | 0 => []
  | n + 1 => m.read a :: Memory.load m (a + 1) n

/-- The canonical form from address `lo` on: addresses strictly rise and exist, no entry equals the reset contents. -/
def Memory.wfFrom : Nat → Memory → Bool
  | _, [] => true
  | lo, (k, b) :: m => decide (lo ≤ k) && decide (k ≤ Config.addrMax) && (b != unlisted k) && Memory.wfFrom (k + 1) m

/-- The canonical form of memory. -/
def Memory.wf (m : Memory) : Bool := Memory.wfFrom 0 m

/-- The bounds-checked byte read MemRead(a, 1) (20_memory.md R57). -/
def memRead (m : Memory) (a : Nat) : Except Fault Byte :=
  if a ≤ Config.addrMax then .ok (m.read a) else .error (.memoryOutOfRange (BitVec.ofNat 16 a))

/-- The bounds-checked big-endian word read MemRead(a, 2), instruction fetch only (20_memory.md R53, R57). -/
def memReadWord (m : Memory) (a : Nat) : Except Fault Word :=
  match memRead m a with
  | .error f => .error f
  | .ok hi =>
    match memRead m (a + 1) with
    | .error f => .error f
    | .ok lo => .ok (wordOfBytes hi lo)

/-- The fault of a data access to `len` bytes from `base`, if one of its addresses passes 0xFFF: the lowest such address
is max(base, 0x1000) (20_memory.md R57, R60; 42_index_memory.md R156). -/
def rangeFault (base : Word) (len : Nat) : Option Fault :=
  if len ≠ 0 ∧ Config.addrMax < base.toNat + (len - 1) then
    some (.memoryOutOfRange (BitVec.ofNat 16 (max base.toNat (Config.addrMax + 1))))
  else none

/-- A result that is reached only when the whole range exists: every address is checked before anything changes
(20_memory.md R57). -/
def inRange (base : Word) (len : Nat) (s : State) : Except Fault State :=
  match rangeFault base len with
  | some f => .error f
  | none => .ok s

/-- The fetch: the word at PC and PC + 1, whatever the parity of PC (20_memory.md R53, R58). -/
def fetch (s : State) : Except Fault Word := memReadWord s.mem s.pc.toNat

/-! ### Registers (10_state.md R21, R22) -/

/-- Read V[x]. -/
def State.reg (s : State) (x : RegIx) : Byte := s.v[x.toNat]'x.isLt

/-- Write V[x]. -/
def State.setReg (s : State) (x : RegIx) (b : Byte) : State := { s with v := s.v.set x.toNat b x.isLt }

/-- The number of VF, the flag destination. -/
def vf : RegIx := 15

/-- Write VF. -/
def State.setVF (s : State) (b : Byte) : State := s.setReg vf b

/-- Write the bytes to V[k], V[k+1], … in ascending order (42_index_memory.md R155). -/
def setRegsFrom (v : Vector Byte 16) (k : Nat) : List Byte → Vector Byte 16
  | [] => v
  | b :: bs => setRegsFrom (v.setIfInBounds k b) (k + 1) bs

/-- The contents of V0 to Vx, in ascending order (42_index_memory.md R154). -/
def State.regsUpTo (s : State) (x : RegIx) : List Byte := s.v.toList.take (x.toNat + 1)

/-! ### The call stack (10_state.md R26 to R29) -/

/-- Push(v) (10_state.md R28). -/
def push (s : State) (w : Word) : Except Fault State :=
  if h : s.sp.val < Config.stackDepth then
    .ok { s with stack := s.stack.set s.sp.val w h, sp := ⟨s.sp.val + 1, Nat.succ_lt_succ h⟩ }
  else .error (.stackOverflow s.pc)

/-- Pop() (10_state.md R29): the popped value, and the state in which its entry is no longer live but keeps its value. -/
def pop (s : State) : Except Fault (Word × State) :=
  if h : 0 < s.sp.val then
    .ok (s.stack[s.sp.val - 1]'(by have := s.sp.isLt; omega), { s with sp := ⟨s.sp.val - 1, by have := s.sp.isLt; omega⟩ })
  else .error (.stackUnderflow s.pc)

/-! ### The framebuffer (10_state.md R32) -/

/-- FB[y][x]. -/
def pixel (fb : Framebuffer) (y : Fin 32) (x : Fin 64) : Bool := fb[y][x]

/-- Write FB[y][x]. -/
def setPixel (fb : Framebuffer) (y : Fin 32) (x : Fin 64) (b : Bool) : Framebuffer :=
  fb.set y.val (fb[y].set x.val b x.isLt) y.isLt

/-- All pixels unset. -/
def clearFb : Framebuffer := Vector.replicate 32 (Vector.replicate 64 false)

/-! ### The ends of an instruction (30_encoding.md R74, 10_state.md R25) -/

/-- The instruction sets PC itself, and the Step returns Ok. -/
def State.retireTo (s : State) (target : Word) : State := { s with pc := target, outcome := .ok }

/-- The default increment. -/
def State.advance (s : State) : State := s.retireTo (s.pc + 2)

/-- A conditional skip: PC advances by 4 in all when the condition holds, else by 2 (40_control_flow.md R100). -/
def State.skipIf (s : State) (c : Bool) : State := s.retireTo (if c then s.pc + 4 else s.pc + 2)

/-- Fx0A without a key event: nothing changes, the Step returns WaitingForKey (44_keypad_timers.md R182). -/
def State.waitForKey (s : State) : State := { s with outcome := .waitingForKey }

/-! ### Taking a fault, and the return from one (60_exceptions.md) -/

/-- The cause code (60_exceptions.md R201). -/
def faultCode (f : Fault) : BitVec 3 :=
  match f with
  | .memoryOutOfRange _ => 1
  | .stackOverflow _ => 2
  | .stackUnderflow _ => 3

/-- The value FINFO receives (60_exceptions.md R201). -/
def faultInfo (f : Fault) : Word :=
  match f with
  | .memoryOutOfRange a => a
  | .stackOverflow p => p
  | .stackUnderflow p => p

/-- Fatal fault entry (60_exceptions.md R203): STATUS, FCAUSE and FINFO are written and nothing else; PC stays; the Step
returns Fatal(code, info). -/
def State.takeFault (s : State) (f : Fault) : State :=
  { s with status := .faulted, fcause := faultCode f, finfo := faultInfo f, outcome := .fatal (faultCode f) (faultInfo f) }

/-- A Step while Faulted: the recorded fault is returned again and nothing changes (60_exceptions.md R204). -/
def State.stayFaulted (s : State) : State := { s with outcome := .fatal s.fcause s.finfo }

/-- The decode fault (60_exceptions.md R205, 10_state.md R36). -/
def State.takeDecodeFault (s : State) (w : Word) : State :=
  { s with df := true, dfword := w, dfpc := s.pc, pc := s.pc + 2, outcome := .decodeFault s.pc w }

/-- The outcome of an execute phase: a raised fatal fault abandons the instruction and is taken in the state it began
with (60_exceptions.md R203). -/
def settle (s : State) (r : Except Fault State) : Host.Outcome State Fault Refusal :=
  match r with
  | .ok t => .next t
  | .error f => .next (s.takeFault f)

/-- The only return from a fault: the Reset operation (60_exceptions.md R208, 70_reset_and_hazards.md R240). Every piece of
state takes its reset value; the inputs and the number of Steps made are the environment's and go on (log entry 27). -/
def hostReset (s : State) : State := { State.reset with inp := s.inp, draws := s.draws }

/-- The end of every Step: the host's next inputs are free values, and a Load is no longer inside the interface
(60_exceptions.md R212, R216 to R218; 70_reset_and_hazards.md R242; log entries 2 and 9). -/
def State.endStep (s : State) : State :=
  { s with
    inp :=
      { keyLevel := Config.keyLevel s.draws, keyEvent := Config.keyEvent s.draws, rand := Config.rand s.draws }
    draws := s.draws + 1
    loadOpen := false }

/-- An instruction word placed where the fetch reads it: the high byte at PC, the low byte at PC + 1. -/
def placeWord (s : State) (w : Word) : State :=
  { s with mem := s.mem.store s.pc.toNat [highByte w, lowByte w] }

end Sys2Proof.Machine
end

