-- ==== Sys2Proof/Machine/Flags.lean ====
section
/-! DEFINITION. The values the six flag instructions write to VF (10_state.md R22, 41_alu.md R133), from exact natural
numbers. -/

namespace Sys2Proof.Machine

/-- A flag as the byte VF receives: 1 or 0. -/
def flagByte (b : Bool) : Byte := if b then 1 else 0

/-- The carry of an 8-bit addition, the ninth bit of the exact sum (41_alu.md R126). -/
def carryOf (a b : Byte) : Bool := decide (255 < a.toNat + b.toNat)

/-- No borrow in `a - b`: minuend at least subtrahend, equality included (41_alu.md R127, R133). -/
def noBorrow (a b : Byte) : Bool := decide (b.toNat ≤ a.toNat)

/-- The bit a right shift by one moves out, as a byte (41_alu.md R128). -/
def bitOutRight (a : Byte) : Byte := a &&& 0x01

/-- The bit a left shift by one moves out, as a byte (41_alu.md R130). -/
def bitOutLeft (a : Byte) : Byte := (a >>> 7) &&& 0x01

/-- The collision of one pixel: set before, unset after (43_display.md R172). -/
def collides (old new : Bool) : Bool := old && !new

end Sys2Proof.Machine
end

