-- ==== Sys2Proof/Machine/Operands.lean ====
section
/-! DEFINITION. The operand forms: zero-extended immediates, 8-bit arithmetic, decimal digits, glyph addresses, keys, and
the pixels of a sprite (30_encoding.md R73 and the family files). -/

namespace Sys2Proof.Machine

/-- A 12-bit immediate zero-extended to 16 bits (30_encoding.md R73). -/
def zextAddr (nnn : Addr) : Word := nnn.setWidth 16

/-- The exact sum reduced modulo 256 (41_alu.md R133). -/
def add8 (a b : Byte) : Byte := BitVec.ofNat 8 (a.toNat + b.toNat)

/-- The difference reduced modulo 256: `a - b` when a ≥ b, else `a - b + 256` (41_alu.md R133). -/
def sub8 (a b : Byte) : Byte := if b.toNat ≤ a.toNat then BitVec.ofNat 8 (a.toNat - b.toNat) else BitVec.ofNat 8 (a.toNat + 256 - b.toNat)

/-- Right by exactly one position, 0 in the vacated bit (41_alu.md R133). -/
def shiftRight1 (a : Byte) : Byte := a >>> 1

/-- Left by exactly one position, modulo 256 (41_alu.md R133). -/
def shiftLeft1 (a : Byte) : Byte := a <<< 1

/-- The target of Bnnn: the natural sum, not reduced modulo 4096 (40_control_flow.md R104). -/
def indexedTarget (nnn : Addr) (b : Byte) : Word := BitVec.ofNat 16 (nnn.toNat + b.toNat)

/-- I + Vx modulo 65536 (42_index_memory.md R151). -/
def addIndex (i : Word) (b : Byte) : Word := BitVec.ofNat 16 (i.toNat + b.toNat)

/-- The hundreds, tens and units of a byte, one digit a byte (42_index_memory.md R153). -/
def decimalDigits (b : Byte) : List Byte :=
  [BitVec.ofNat 8 (b.toNat / 100), BitVec.ofNat 8 (b.toNat / 10 % 10), BitVec.ofNat 8 (b.toNat % 10)]

/-- The address of the glyph of a digit 0 to 15; for any other byte a free value (42_index_memory.md R152; log entry 4). -/
def glyphAddress (s : State) (b : Byte) : Word :=
  if b.toNat ≤ 15 then BitVec.ofNat 16 (Config.fontBase.val + Config.glyphBytes * b.toNat) else Config.glyphDraw s.draws

/-- Whether Ex9E skips: the key's level for a key 0 to 15, else a free value (44_keypad_timers.md R180; log entry 5). -/
def skipsOnPressed (s : State) (key : Byte) : Bool :=
  if key.toNat ≤ 15 then s.inp.keyLevel.getLsbD key.toNat else Config.skipDraw s.draws

/-- Whether ExA1 skips (44_keypad_timers.md R181; log entry 5). -/
def skipsOnNotPressed (s : State) (key : Byte) : Bool :=
  if key.toNat ≤ 15 then !s.inp.keyLevel.getLsbD key.toNat else Config.skipDraw s.draws

/-! ### The pixels of a sprite (43_display.md R172) -/

/-- One sprite bit and the pixel it falls on. -/
structure SpriteBit where
  /-- The row of the pixel, already wrapped. -/
  y : Fin 32
  /-- The column of the pixel, already wrapped. -/
  x : Fin 64
  /-- The sprite bit. -/
  bit : Bool
  deriving DecidableEq, Repr

/-- Bit c of a sprite row, c = 0 the most significant, at column (x0 + c) mod 64 of row y mod 32. -/
def spriteBit (x0 y : Nat) (row : Byte) (c : Nat) : SpriteBit where
  y := ⟨y % 32, Nat.mod_lt _ (by decide)⟩
  x := ⟨(x0 + c) % 64, Nat.mod_lt _ (by decide)⟩
  bit := row.getLsbD (7 - c)

/-- The 8 bits of a sprite row, in ascending column order. -/
def spriteRow (x0 y : Nat) (row : Byte) : List SpriteBit := (List.range 8).map (spriteBit x0 y row)

/-- The bits of a sprite, row by row. -/
def spriteBits (x0 : Nat) : Nat → List Byte → List SpriteBit
  | _, [] => []
  | y, row :: rows => spriteRow x0 y row ++ spriteBits x0 (y + 1) rows

/-- Draw one bit: the pixel becomes old XOR bit, and a pixel that goes from set to unset is a collision. -/
def drawBit (acc : Framebuffer × Bool) (p : SpriteBit) : Framebuffer × Bool :=
  let old := pixel acc.1 p.y p.x
  let new := old ^^ p.bit
  (setPixel acc.1 p.y p.x new, acc.2 || collides old new)

/-- Draw the bits in order: the framebuffer after them, and whether there was a collision. -/
def drawBits (fb : Framebuffer) (ps : List SpriteBit) : Framebuffer × Bool := ps.foldl drawBit (fb, false)

end Sys2Proof.Machine
end

