-- ==== Sys2Proof/Machine/Alu.lean ====
section
/-! DEFINITION. Register load, arithmetic, logic, shifts and random: 6xkk 7xkk 8xy0 to 8xy7 8xyE Cxkk (41_alu.md). Where
VF is also an operand the writes happen in the order of the rule's lines (R134). -/

namespace Sys2Proof.Machine

/-- 6xkk (R120). -/
def execLdImm (x : RegIx) (kk : Byte) (s : State) : Host.Outcome State Fault Refusal :=
  .next (s.setReg x kk).advance

/-- 7xkk: no flag (R121). -/
def execAddImm (x : RegIx) (kk : Byte) (s : State) : Host.Outcome State Fault Refusal :=
  .next (s.setReg x (add8 (s.reg x) kk)).advance

/-- 8xy0 (R122). -/
def execLdReg (x y : RegIx) (s : State) : Host.Outcome State Fault Refusal :=
  .next (s.setReg x (s.reg y)).advance

/-- 8xy1 (R123). -/
def execOrReg (x y : RegIx) (s : State) : Host.Outcome State Fault Refusal :=
  .next (s.setReg x (s.reg x ||| s.reg y)).advance

/-- 8xy2 (R124). -/
def execAndReg (x y : RegIx) (s : State) : Host.Outcome State Fault Refusal :=
  .next (s.setReg x (s.reg x &&& s.reg y)).advance

/-- 8xy3 (R125). -/
def execXorReg (x y : RegIx) (s : State) : Host.Outcome State Fault Refusal :=
  .next (s.setReg x (s.reg x ^^^ s.reg y)).advance

/-- 8xy4: Vx, then VF (R126). -/
def execAddReg (x y : RegIx) (s : State) : Host.Outcome State Fault Refusal :=
  .next ((s.setReg x (add8 (s.reg x) (s.reg y))).setVF (flagByte (carryOf (s.reg x) (s.reg y)))).advance

/-- A flag is written to VF, and then Vx is computed from the registers that write left (R127 to R130, R134). -/
def flagThen (s : State) (flag : Byte) (x : RegIx) (result : State → Byte) : State :=
  ((s.setVF flag).setReg x (result (s.setVF flag))).advance

/-- 8xy5: VF, then Vx (R127). -/
def execSub (x y : RegIx) (s : State) : Host.Outcome State Fault Refusal :=
  .next (flagThen s (flagByte (noBorrow (s.reg x) (s.reg y))) x fun t => sub8 (t.reg x) (t.reg y))

/-- 8xy6: VF, then Vx in place; y is ignored (R128). -/
def execShr (x _y : RegIx) (s : State) : Host.Outcome State Fault Refusal :=
  .next (flagThen s (bitOutRight (s.reg x)) x fun t => shiftRight1 (t.reg x))

/-- 8xy7: VF, then Vx (R129). -/
def execSubn (x y : RegIx) (s : State) : Host.Outcome State Fault Refusal :=
  .next (flagThen s (flagByte (noBorrow (s.reg y) (s.reg x))) x fun t => sub8 (t.reg y) (t.reg x))

/-- 8xyE: VF, then Vx in place; y is ignored (R130). -/
def execShl (x _y : RegIx) (s : State) : Host.Outcome State Fault Refusal :=
  .next (flagThen s (bitOutLeft (s.reg x)) x fun t => shiftLeft1 (t.reg x))

/-- Cxkk: the random input of this Step (R131). -/
def execRnd (x : RegIx) (kk : Byte) (s : State) : Host.Outcome State Fault Refusal :=
  .next (s.setReg x (s.inp.rand &&& kk)).advance

end Sys2Proof.Machine
end

