-- ==== Sys2Proof/Machine/Control.lean ====
section
/-! DEFINITION. Control transfer: 00EE 1nnn 2nnn Bnnn 3xkk 4xkk 5xy0 9xy0 (40_control_flow.md). -/

namespace Sys2Proof.Machine

/-- 00EE: PC becomes the popped value, without increment (R101). -/
def execRet (s : State) : Host.Outcome State Fault Refusal :=
  settle s ((pop s).map fun p => p.2.retireTo p.1)

/-- 1nnn (R102). -/
def execJp (nnn : Addr) (s : State) : Host.Outcome State Fault Refusal :=
  .next (s.retireTo (zextAddr nnn))

/-- 2nnn: the address of the next instruction is pushed (R103; 90_conflicts.md C2). -/
def execCall (nnn : Addr) (s : State) : Host.Outcome State Fault Refusal :=
  settle s ((push s (s.pc + 2)).map fun t => t.retireTo (zextAddr nnn))

/-- Bnnn: always V0, not masked (R104). -/
def execJpV0 (nnn : Addr) (s : State) : Host.Outcome State Fault Refusal :=
  .next (s.retireTo (indexedTarget nnn (s.reg 0)))

/-- 3xkk (R105). -/
def execSeImm (x : RegIx) (kk : Byte) (s : State) : Host.Outcome State Fault Refusal :=
  .next (s.skipIf (s.reg x == kk))

/-- 4xkk (R106). -/
def execSneImm (x : RegIx) (kk : Byte) (s : State) : Host.Outcome State Fault Refusal :=
  .next (s.skipIf (s.reg x != kk))

/-- 5xy0 (R107). -/
def execSeReg (x y : RegIx) (s : State) : Host.Outcome State Fault Refusal :=
  .next (s.skipIf (s.reg x == s.reg y))

/-- 9xy0 (R108). -/
def execSneReg (x y : RegIx) (s : State) : Host.Outcome State Fault Refusal :=
  .next (s.skipIf (s.reg x != s.reg y))

end Sys2Proof.Machine
end

