-- ==== Sys2Proof/Machine/Display.lean ====
section
/-! DEFINITION. The framebuffer instructions: 00E0 Dxyn (43_display.md). -/

namespace Sys2Proof.Machine

/-- 00E0 (R171). -/
def execCls (s : State) : Host.Outcome State Fault Refusal :=
  .next { s with fb := clearFb, dirty := true }.advance

/-- The bits of the sprite Dxyn draws: n rows from memory at I, at the coordinates Vx, Vy read before any write (R172). -/
def spriteOf (s : State) (x y : RegIx) (n : BitVec 4) : List SpriteBit :=
  spriteBits (s.reg x).toNat (s.reg y).toNat (s.mem.load s.i.toNat n.toNat)

/-- Dxyn: the pixels, then VF, then DIRTY (R172). -/
def execDrw (x y : RegIx) (n : BitVec 4) (s : State) : Host.Outcome State Fault Refusal :=
  let drawn := drawBits s.fb (spriteOf s x y n)
  settle s (inRange s.i n.toNat ({ s with fb := drawn.1, dirty := true }.setVF (flagByte drawn.2)).advance)

end Sys2Proof.Machine
end

