-- ==== Sys2Proof/Machine/Index.lean ====
section
/-! DEFINITION. The address register and memory transfers: Annn Fx1E Fx29 Fx33 Fx55 Fx65 (42_index_memory.md). The three
transfers check their whole range before they change anything (R156). -/

namespace Sys2Proof.Machine

/-- Annn (R150). -/
def execLdI (nnn : Addr) (s : State) : Host.Outcome State Fault Refusal :=
  .next { s with i := zextAddr nnn }.advance

/-- Fx1E: wraps at 16 bits, no flag (R151). -/
def execAddI (x : RegIx) (s : State) : Host.Outcome State Fault Refusal :=
  .next { s with i := addIndex s.i (s.reg x) }.advance

/-- Fx29 (R152; log entry 4). -/
def execLdF (x : RegIx) (s : State) : Host.Outcome State Fault Refusal :=
  .next { s with i := glyphAddress s (s.reg x) }.advance

/-- Fx33: three decimal digits at I (R153). -/
def execLdB (x : RegIx) (s : State) : Host.Outcome State Fault Refusal :=
  settle s (inRange s.i 3 { s with mem := s.mem.store s.i.toNat (decimalDigits (s.reg x)) }.advance)

/-- Fx55: V0 to Vx to memory at I; I is unchanged (R154). -/
def execLdMemVx (x : RegIx) (s : State) : Host.Outcome State Fault Refusal :=
  settle s (inRange s.i (x.toNat + 1) { s with mem := s.mem.store s.i.toNat (s.regsUpTo x) }.advance)

/-- Fx65: memory at I to V0 to Vx; I is unchanged (R155). -/
def execLdVxMem (x : RegIx) (s : State) : Host.Outcome State Fault Refusal :=
  settle s
    (inRange s.i (x.toNat + 1) { s with v := setRegsFrom s.v 0 (s.mem.load s.i.toNat (x.toNat + 1)) }.advance)

end Sys2Proof.Machine
end

