-- ==== Sys2Proof/Machine/Keypad.lean ====
section
/-! DEFINITION. Keypad and timer instructions: Ex9E ExA1 Fx0A Fx07 Fx15 Fx18 (44_keypad_timers.md). -/

namespace Sys2Proof.Machine

/-- Ex9E (R180; log entry 5). -/
def execSkp (x : RegIx) (s : State) : Host.Outcome State Fault Refusal :=
  .next (s.skipIf (skipsOnPressed s (s.reg x)))

/-- ExA1 (R181; log entry 5). -/
def execSknp (x : RegIx) (s : State) : Host.Outcome State Fault Refusal :=
  .next (s.skipIf (skipsOnNotPressed s (s.reg x)))

/-- Fx0A: without a key event the Step waits, with one Vx is the key (R182). -/
def execLdVxK (x : RegIx) (s : State) : Host.Outcome State Fault Refusal :=
  match s.inp.keyEvent with
  | none => .next s.waitForKey
  | some k => .next (s.setReg x (k.setWidth 8)).advance

/-- Fx07 (R183). -/
def execLdVxDt (x : RegIx) (s : State) : Host.Outcome State Fault Refusal :=
  .next (s.setReg x s.dt).advance

/-- Fx15 (R184). -/
def execLdDtVx (x : RegIx) (s : State) : Host.Outcome State Fault Refusal :=
  .next { s with dt := s.reg x }.advance

/-- Fx18 (R185). -/
def execLdStVx (x : RegIx) (s : State) : Host.Outcome State Fault Refusal :=
  .next { s with st := s.reg x }.advance

end Sys2Proof.Machine
end

