-- ==== Sys2Proof/Machine/Cycle.lean ====
section
/-! DEFINITION. The instruction cycle (30_encoding.md R74). -/

namespace Sys2Proof.Machine

/-- A next state ends the Step; a fault or a refusal passes through. -/
def finish (o : Host.Outcome State Fault Refusal) : Host.Outcome State Fault Refusal :=
  match o with
  | .next t => .next t.endStep
  | .fault r => .fault r
  | .refused r => .refused r

/-- Decode and execute a fetched word (30_encoding.md R74, R75). -/
def decodeAndExec (s : State) (w : Word) : Host.Outcome State Fault Refusal :=
  match decodeWord w with
  | .ok i => exec i s
  | .error _ => .next (s.takeDecodeFault w)

/-- One Step: the recorded fault, then fetch, then decode, then execute (30_encoding.md R74, 60_exceptions.md R206). -/
def cycle (s : State) : Host.Outcome State Fault Refusal :=
  match s.status with
  | .faulted => .next s.stayFaulted.endStep
  | .running =>
    match fetch s with
    | .error f => .next (s.takeFault f).endStep
    | .ok w => finish (decodeAndExec s w)

end Sys2Proof.Machine
end

