-- ==== Sys2Proof/Machine/Step.lean ====
section
/-! DEFINITION. The step of the machine, which is the host operation Step (60_exceptions.md R210), and the host's way to
place an instruction where the next Step fetches it (log entry 24). -/

namespace Sys2Proof.Machine

/-- One Step. -/
def step (s : State) : Host.Outcome State Fault Refusal := cycle s

/-- The state with a table row's word stored at PC and PC + 1, nothing else changed; where the state is Running and PC is
at most 0xFFE, the next step runs that instruction. It stands for a Load (log entry 24). -/
def State.withFetchWord (s : State) (nbits w : Nat) : State := placeWord s (tableWord nbits w)

end Sys2Proof.Machine
end

