-- ==== Sys2Proof/Machine/HostOps.lean ====
section
/-! DEFINITION. The five host operations (60_exceptions.md R210) and a run of the machine, a sequence of them. -/

namespace Sys2Proof.Machine

/-- A host operation with its arguments (60_exceptions.md R210). -/
inductive HostOp where
  | reset
  | load (rom : List Byte)
  | step (inp : Inputs)
  | tick
  | consumeFrame
  deriving DecidableEq, Repr

/-- One decrement toward zero, never below it (60_exceptions.md R213). -/
def countDown (b : Byte) : Byte := if b = 0 then 0 else b - 1

/-- Tick (60_exceptions.md R213, R214): the beep is tested before the decrement; acts in every status. -/
def tick (s : State) : State :=
  { s with beep := decide (0 < s.st.toNat), dt := countDown s.dt, st := countDown s.st }

/-- ConsumeFrame (60_exceptions.md R220): the snapshot, and the state with DIRTY cleared. -/
def consumeFrame (s : State) : Framebuffer × State := (s.fb, { s with dirty := false })

/-- What Load answers for a ROM (70_reset_and_hazards.md R243). -/
def loadResult (rom : List Byte) : LoadOutcome :=
  if !romNonempty rom then .romEmpty else if !romFits rom then .romTooLarge rom.length else .ok

/-- Load (70_reset_and_hazards.md R242, R243): refused unless it is the first Load and no Step came since the last Reset;
a ROM that is not accepted changes nothing. -/
def hostLoad (rom : List Byte) (s : State) : Host.Outcome State Fault Refusal :=
  if s.loadOpen then
    .next
      { s with
        mem := if romWf rom then s.mem.store Config.progBase rom else s.mem
        loadOutcome := loadResult rom
        loadOpen := false }
  else .refused .loadOutsideInterface

/-- The host presents the inputs of the next Step (60_exceptions.md R212). -/
def present (inp : Inputs) (s : State) : State := { s with inp := inp }

/-- One host operation (60_exceptions.md R210). -/
def operate (op : HostOp) (s : State) : Host.Outcome State Fault Refusal :=
  match op with
  | .reset => .next (hostReset s)
  | .load rom => hostLoad rom s
  | .step inp => step (present inp s)
  | .tick => .next (tick s)
  | .consumeFrame => .next (consumeFrame s).2

/-- A run of the machine: the operations one at a time, in order (60_exceptions.md R210, R219). -/
def operateAll : List HostOp → State → Host.Outcome State Fault Refusal
  | [], s => .next s
  | op :: ops, s =>
    match operate op s with
    | .next t => operateAll ops t
    | .fault r => .fault r
    | .refused r => .refused r

/-- The Tick operation `n` times (60_exceptions.md R213). -/
def ticks : Nat → State → State
  | 0, s => s
  | n + 1, s => ticks n (tick s)

end Sys2Proof.Machine
end

