-- ==== Sys2Proof/Safety.lean ====
section
/-! DEFINITION. What counts as a safe state and a safe run, what an instruction leaves unchanged, the invariant of every
reachable state (10_state.md R40), and the views of the machine in which the statements are written. -/

namespace Sys2Proof

open Sys2Proof.Machine

/-! ### Clean and finished states -/

/-- Nothing went wrong: no fatal fault (60_exceptions.md R204) and no decode fault (R205) since Reset. -/
def Clean (s : State) : Prop := s.status = .running ∧ s.df = false

/-- The instruction the next Step executes, if it gets that far (30_encoding.md R74). -/
def executes (s : State) : Option Instr :=
  match s.status with
  | .faulted => none
  | .running =>
    match fetch s with
    | .error _ => none
    | .ok w =>
      match decodeWord w with
      | .ok i => some i
      | .error _ => none

/-- The end of a run as 70_reset_and_hazards.md R246 suggests it: PC holds the address of a jump to itself, cleanly. -/
def Finished (s : State) : Prop := Clean s ∧ ∃ nnn : Addr, executes s = some (.jp nnn) ∧ nnn.toNat = s.pc.toNat

/-! ### The invariant of every reachable state -/

/-- 10_state.md R40, with the canonical form of memory and the reset values of the diagnostic registers (R35, R36). The
bounds of SP, V, I, DT and ST hold by their types. -/
structure MachineInv (s : State) : Prop where
  /-- Memory is in its canonical form, so every listed address is in 0x000 to 0xFFF. -/
  mem : s.mem.wf = true
  /-- PC is in 0..0x10FE. -/
  pc : s.pc.toNat ≤ 0x10FE
  /-- Every live stack entry is in 2..0x1000. -/
  stack : ∀ k : Fin 16, k.val < s.sp.val → 2 ≤ (s.stack[k]).toNat ∧ (s.stack[k]).toNat ≤ 0x1000
  /-- Faulted implies FCAUSE is 1, 2 or 3. -/
  faulted : s.status = .faulted → s.fcause = 1 ∨ s.fcause = 2 ∨ s.fcause = 3
  /-- FCAUSE and FINFO are 0 while Running (10_state.md R35). -/
  running : s.status = .running → s.fcause = 0 ∧ s.finfo = 0
  /-- DFWORD and DFPC are 0 until the first decode fault (10_state.md R36, R39). -/
  noDecodeFault : s.df = false → s.dfword = 0 ∧ s.dfpc = 0

/-! ### What is left unchanged -/

/-- Every general register but those named. -/
def SameRegsBut (xs : List RegIx) (s t : State) : Prop := ∀ r : RegIx, r ∉ xs → t.reg r = s.reg r

/-- Every byte of memory. -/
def SameMem (s t : State) : Prop := ∀ a : Nat, t.mem.read a = s.mem.read a

/-- Every byte of memory outside the `len` bytes from `base`. -/
def SameMemBut (base len : Nat) (s t : State) : Prop := ∀ a : Nat, a < base ∨ base + len ≤ a → t.mem.read a = s.mem.read a

/-- The address register I. -/
def SameIndex (s t : State) : Prop := t.i = s.i

/-- The call stack. -/
def SameStack (s t : State) : Prop := t.sp = s.sp ∧ t.stack = s.stack

/-- The timers. -/
def SameTimers (s t : State) : Prop := t.dt = s.dt ∧ t.st = s.st

/-- The framebuffer and DIRTY. -/
def SameScreen (s t : State) : Prop := t.fb = s.fb ∧ t.dirty = s.dirty

/-- The decode-fault registers. -/
def SameDecodeFault (s t : State) : Prop := t.df = s.df ∧ t.dfword = s.dfword ∧ t.dfpc = s.dfpc

/-- The status and diagnostic registers (10_state.md R34 to R36). -/
def SameStatus (s t : State) : Prop :=
  t.status = s.status ∧ t.fcause = s.fcause ∧ t.finfo = s.finfo ∧ SameDecodeFault s t

/-- The ports other than the outcome of a Step, and the model's own fields. -/
def SameEnv (s t : State) : Prop :=
  t.inp = s.inp ∧ t.loadOutcome = s.loadOutcome ∧ t.beep = s.beep ∧ t.draws = s.draws ∧ t.loadOpen = s.loadOpen

/-- Everything but the registers named, PC and the outcome of the Step. -/
def OnlyRegs (xs : List RegIx) (s t : State) : Prop :=
  SameRegsBut xs s t ∧ SameMem s t ∧ SameIndex s t ∧ SameStack s t ∧ SameTimers s t ∧ SameScreen s t ∧ SameStatus s t
    ∧ SameEnv s t

/-- Everything but PC and the outcome of the Step. -/
def OnlyPc (s t : State) : Prop := OnlyRegs [] s t

/-- Everything the spec calls state but STATUS, FCAUSE and FINFO (60_exceptions.md R203). -/
def SameUnderFault (s t : State) : Prop :=
  SameRegsBut [] s t ∧ SameMem s t ∧ SameIndex s t ∧ t.pc = s.pc ∧ SameStack s t ∧ SameTimers s t ∧ SameScreen s t
    ∧ SameDecodeFault s t

/-- The fatal fault with this code and info was taken from s: 60_exceptions.md R203. -/
def FaultTaken (code : BitVec 3) (info : Word) (s t : State) : Prop :=
  t.status = .faulted ∧ t.fcause = code ∧ t.finfo = info ∧ t.outcome = .fatal code info ∧ SameUnderFault s t

/-- Everything but the call stack, PC and the outcome of the Step. -/
def OnlyStack (s t : State) : Prop :=
  SameRegsBut [] s t ∧ SameMem s t ∧ SameIndex s t ∧ SameTimers s t ∧ SameScreen s t ∧ SameStatus s t ∧ SameEnv s t

/-- Everything but memory, PC and the outcome of the Step. -/
def OnlyMem (s t : State) : Prop :=
  SameRegsBut [] s t ∧ SameIndex s t ∧ SameStack s t ∧ SameTimers s t ∧ SameScreen s t ∧ SameStatus s t ∧ SameEnv s t

/-- Everything but I, PC and the outcome of the Step. -/
def OnlyIndex (s t : State) : Prop :=
  SameRegsBut [] s t ∧ SameMem s t ∧ SameStack s t ∧ SameTimers s t ∧ SameScreen s t ∧ SameStatus s t ∧ SameEnv s t

/-- Everything but FB, DIRTY, the registers named, PC and the outcome of the Step. -/
def OnlyScreen (xs : List RegIx) (s t : State) : Prop :=
  SameRegsBut xs s t ∧ SameMem s t ∧ SameIndex s t ∧ SameStack s t ∧ SameTimers s t ∧ SameStatus s t ∧ SameEnv s t

/-- Everything but DT, ST, PC and the outcome of the Step. -/
def OnlyTimers (s t : State) : Prop :=
  SameRegsBut [] s t ∧ SameMem s t ∧ SameIndex s t ∧ SameStack s t ∧ SameScreen s t ∧ SameStatus s t ∧ SameEnv s t

/-! ### Reset (10_state.md R39) -/

/-- Every piece of state the spec lists has its reset value. -/
def AtReset (s : State) : Prop :=
  (∀ a : Nat, s.mem.read a =
      if Config.fontBase.val ≤ a ∧ a < Config.fontBase.val + 80 then Config.fontByte (a - Config.fontBase.val) else 0)
  ∧ (∀ r : RegIx, s.reg r = 0) ∧ s.i = 0 ∧ s.pc = 0x200 ∧ s.sp.val = 0 ∧ (∀ k : Fin 16, s.stack[k] = 0)
  ∧ s.dt = 0 ∧ s.st = 0 ∧ (∀ y x, pixel s.fb y x = false) ∧ s.dirty = false
  ∧ s.status = .running ∧ s.fcause = 0 ∧ s.finfo = 0 ∧ s.df = false ∧ s.dfword = 0 ∧ s.dfpc = 0

/-! ### Who writes what (10_state.md R41) -/

/-- The instructions whose x field names the register they write. -/
def destReg (i : Instr) : Option RegIx :=
  match i with
  | .ldImm x _ | .addImm x _ | .ldReg x _ | .orReg x _ | .andReg x _ | .xorReg x _ | .addReg x _ => some x
  | .sub x _ | .shr x _ | .subn x _ | .shl x _ | .rnd x _ | .ldVxDt x | .ldVxK x => some x
  | .cls | .ret | .jp _ | .call _ | .seImm _ _ | .sneImm _ _ | .seReg _ _ | .sneReg _ _ | .ldI _ | .jpV0 _ => none
  | .drw _ _ _ | .skp _ | .sknp _ | .ldDtVx _ | .ldStVx _ | .addI _ | .ldF _ | .ldB _ | .ldMemVx _ | .ldVxMem _ => none

/-- The six instructions that write VF as a flag (10_state.md R22). -/
def setsFlag (i : Instr) : Bool :=
  match i with
  | .addReg _ _ | .sub _ _ | .shr _ _ | .subn _ _ | .shl _ _ | .drw _ _ _ => true
  | _ => false

/-- Fx65 writes V0 to Vx. -/
def blockLoads (i : Instr) (r : RegIx) : Bool :=
  match i with
  | .ldVxMem x => decide (r.toNat ≤ x.toNat)
  | _ => false

/-- The registers an instruction can write. -/
def writesReg (i : Instr) (r : RegIx) : Bool := decide (destReg i = some r) || (setsFlag i && decide (r = 15)) || blockLoads i r

/-- Annn, Fx1E, Fx29. -/
def writesIndex (i : Instr) : Bool :=
  match i with
  | .ldI _ | .addI _ | .ldF _ => true
  | _ => false

/-- 2nnn and 00EE. -/
def writesSp (i : Instr) : Bool :=
  match i with
  | .call _ | .ret => true
  | _ => false

/-- 2nnn. -/
def writesStack (i : Instr) : Bool :=
  match i with
  | .call _ => true
  | _ => false

/-- Fx33 and Fx55. -/
def writesMem (i : Instr) : Bool :=
  match i with
  | .ldB _ | .ldMemVx _ => true
  | _ => false

/-- 00E0 and Dxyn. -/
def writesScreen (i : Instr) : Bool :=
  match i with
  | .cls | .drw _ _ _ => true
  | _ => false

/-- Fx15. -/
def writesDt (i : Instr) : Bool :=
  match i with
  | .ldDtVx _ => true
  | _ => false

/-- Fx18. -/
def writesSt (i : Instr) : Bool :=
  match i with
  | .ldStVx _ => true
  | _ => false

/-- Ex9E, ExA1, Fx0A and Cxkk (60_exceptions.md R212). -/
def usesInputs (i : Instr) : Bool :=
  match i with
  | .skp _ | .sknp _ | .ldVxK _ | .rnd _ _ => true
  | _ => false

/-! ### PC after an instruction (10_state.md R25) -/

/-- PC after a skip instruction with this condition. -/
def SkipPc (s : State) (c : Prop) (p : Word) : Prop := (c → p = s.pc + 4) ∧ (¬c → p = s.pc + 2)

/-- PC after a data access to `len` bytes from I. -/
def AccessPc (s : State) (len : Nat) (p : Word) : Prop :=
  (len ≠ 0 ∧ 0xFFF < s.i.toNat + (len - 1) → p = s.pc) ∧ (¬(len ≠ 0 ∧ 0xFFF < s.i.toNat + (len - 1)) → p = s.pc + 2)

/-- The values PC can have after the execute phase of an instruction that began in s. -/
def PcAfter (i : Instr) (s : State) (p : Word) : Prop :=
  match i with
  | .ret => (s.sp.val = 0 → p = s.pc) ∧ ∀ k : Fin 16, s.sp.val = k.val + 1 → p = s.stack[k]
  | .jp nnn => p.toNat = nnn.toNat
  | .call nnn => (s.sp.val = 16 → p = s.pc) ∧ (s.sp.val < 16 → p.toNat = nnn.toNat)
  | .jpV0 nnn => p.toNat = nnn.toNat + (s.reg 0).toNat
  | .seImm x kk => SkipPc s (s.reg x = kk) p
  | .sneImm x kk => SkipPc s (s.reg x ≠ kk) p
  | .seReg x y => SkipPc s (s.reg x = s.reg y) p
  | .sneReg x y => SkipPc s (s.reg x ≠ s.reg y) p
  | .skp x =>
    ((s.reg x).toNat ≤ 15 → SkipPc s (s.inp.keyLevel.getLsbD (s.reg x).toNat = true) p) ∧ (p = s.pc + 2 ∨ p = s.pc + 4)
  | .sknp x =>
    ((s.reg x).toNat ≤ 15 → SkipPc s (s.inp.keyLevel.getLsbD (s.reg x).toNat = false) p) ∧ (p = s.pc + 2 ∨ p = s.pc + 4)
  | .ldVxK _ => (s.inp.keyEvent = none → p = s.pc) ∧ (s.inp.keyEvent ≠ none → p = s.pc + 2)
  | .drw _ _ n => AccessPc s n.toNat p
  | .ldB _ => AccessPc s 3 p
  | .ldMemVx x => AccessPc s (x.toNat + 1) p
  | .ldVxMem x => AccessPc s (x.toNat + 1) p
  | .cls | .ldImm _ _ | .addImm _ _ | .ldReg _ _ | .orReg _ _ | .andReg _ _ | .xorReg _ _ | .addReg _ _ => p = s.pc + 2
  | .sub _ _ | .shr _ _ | .subn _ _ | .shl _ _ | .ldI _ | .rnd _ _ | .ldVxDt _ | .ldDtVx _ | .ldStVx _ => p = s.pc + 2
  | .addI _ | .ldF _ => p = s.pc + 2

/-- Which instruction raises which fatal fault, when, and with which info (60_exceptions.md R201, R202). -/
def RaisesFault (i : Instr) (s : State) (code : BitVec 3) (info : Word) : Prop :=
  match i with
  | .ret => code = 3 ∧ info = s.pc ∧ s.sp.val = 0
  | .call _ => code = 2 ∧ info = s.pc ∧ s.sp.val = 16
  | .drw _ _ n => code = 1 ∧ info.toNat = max s.i.toNat 0x1000 ∧ n ≠ 0 ∧ 0xFFF < s.i.toNat + (n.toNat - 1)
  | .ldB _ => code = 1 ∧ info.toNat = max s.i.toNat 0x1000 ∧ 0xFFF < s.i.toNat + 2
  | .ldMemVx x => code = 1 ∧ info.toNat = max s.i.toNat 0x1000 ∧ 0xFFF < s.i.toNat + x.toNat
  | .ldVxMem x => code = 1 ∧ info.toNat = max s.i.toNat 0x1000 ∧ 0xFFF < s.i.toNat + x.toNat
  | _ => False

/-- The Step returns Ok with this PC. -/
def Retired (pc : Word) (t : State) : Prop := t.pc = pc ∧ t.outcome = .ok

/-! ### The meaning of a word, and runs over given instructions -/

/-- The word with this value is this instruction. -/
def EncodedAs (i : Instr) (w : Nat) : Prop := decodeWord (BitVec.ofNat 16 w) = .ok i

/-- The instructions executed one after the other. -/
def execAll : List Instr → State → Host.Outcome State Fault Refusal
  | [], s => .next s
  | i :: is, s =>
    match exec i s with
    | .next t => execAll is t
    | .fault r => .fault r
    | .refused r => .refused r

/-- Instructions in which the pushes and pops are balanced (40_control_flow.md R109). -/
inductive Balanced : List Instr → Prop where
  | nil : Balanced []
  | plain (i : Instr) (is : List Instr) : (∀ nnn, i ≠ .call nnn) → i ≠ .ret → Balanced is → Balanced (i :: is)
  | nested (nnn : Addr) (body is : List Instr) : Balanced body → Balanced is → Balanced (.call nnn :: body ++ .ret :: is)

/-- "17 consecutive 2nnn calls without matching returns produce a fatal stack-overflow fault on the 17th": from an empty
stack the first 16 succeed and leave SP = 16 (40_control_flow.md R109, 10_state.md R28). -/
def SeventeenthCallFaults : Prop :=
  ∀ (targets : List Addr) (last : Addr) (s : State),
    targets.length = 16 → s.sp.val = 0 → s.status = .running →
      ∃ t u : State, execAll (targets.map .call) s = .next t ∧ t.status = .running ∧ t.sp.val = 16
        ∧ exec (.call last) t = .next u ∧ u.status = .faulted ∧ u.fcause = 2

/-- The number of Ticks in a run. -/
def tickCount : List HostOp → Nat
  | [] => 0
  | .tick :: ops => tickCount ops + 1
  | .reset :: ops => tickCount ops
  | .load _ :: ops => tickCount ops
  | .step _ :: ops => tickCount ops
  | .consumeFrame :: ops => tickCount ops

/-- No Reset in the run, and no Step of it executes an instruction of the kind `writes`. With `writesDt` or `writesSt`
this is the side condition of 90_conflicts.md C9 for that timer. -/
def NoWrite (writes : Instr → Bool) : List HostOp → State → Prop
  | [], _ => True
  | op :: ops, s =>
    op ≠ .reset
    ∧ (∀ inp, op = .step inp → ∀ i, executes (present inp s) = some i → writes i = false)
    ∧ ∀ t, operate op s = .next t → NoWrite writes ops t

/-- The instruction a host operation executes: that of a Step, if it gets that far. -/
def executedBy (op : HostOp) (s : State) : List Instr :=
  match op with
  | .step inp => (executes (present inp s)).toList
  | .reset | .load _ | .tick | .consumeFrame => []

/-- The instructions that a run executes, in order; a Step that is a decode fault or a fault, and every operation that is no
Step, adds none. -/
def executedIn : List HostOp → State → List Instr
  | [], _ => []
  | op :: ops, s =>
    executedBy op s
      ++ match operate op s with
        | .next t => executedIn ops t
        | .fault _ => []
        | .refused _ => []

/-! ### Memory after a store (20_memory.md R63) -/

/-- The byte at an address after Fx55 stored V0 to Vx at I (42_index_memory.md R154). -/
def blockByte (s : State) (x : RegIx) (a : Nat) : Nat :=
  if s.i.toNat ≤ a ∧ a ≤ s.i.toNat + x.toNat then (s.reg (BitVec.ofNat 4 (a - s.i.toNat))).toNat else (s.mem.read a).toNat

/-- The byte at an address after Fx33 stored the digits of Vx at I (42_index_memory.md R153). -/
def digitByte (s : State) (x : RegIx) (a : Nat) : Nat :=
  if a = s.i.toNat then (s.reg x).toNat / 100
  else if a = s.i.toNat + 1 then (s.reg x).toNat / 10 % 10
  else if a = s.i.toNat + 2 then (s.reg x).toNat % 10
  else (s.mem.read a).toNat

/-! ### The sprite of Dxyn, pixel by pixel (43_display.md R172) -/

/-- How many columns a pixel lies to the right of the column x0, around the edge. -/
def columnFrom (x0 : Nat) (px : Fin 64) : Nat := (px.val + 64 - x0 % 64) % 64

/-- How many rows a pixel lies below the row y0, around the edge. -/
def rowFrom (y0 : Nat) (py : Fin 32) : Nat := (py.val + 32 - y0 % 32) % 32

/-- Whether a bit 1 of the n-row sprite in memory at I, drawn at (Vx, Vy), falls on the pixel. -/
def spriteHits (s : State) (x y : RegIx) (n : BitVec 4) (py : Fin 32) (px : Fin 64) : Bool :=
  decide (columnFrom (s.reg x).toNat px < 8) && decide (rowFrom (s.reg y).toNat py < n.toNat)
    && (s.mem.read (s.i.toNat + rowFrom (s.reg y).toNat py)).getLsbD (7 - columnFrom (s.reg x).toNat px)

end Sys2Proof
end

