-- ==== Sys2Proof/Certificates/Slice0/Obligations.lean ====
section
/-! DEFINITION. The statements. Each docstring names the rules it formalises; a statement that rests on one of the spec's
own decisions (D<n>) or on a log entry says so. -/

open Sys2Proof Sys2Proof.Machine

/-! ### Encoding -/

/-- 30_encoding.md R85, and one word of each family (R76). -/
def Obligations.SampleWordsDecode : Prop :=
  (fieldClass 0xA123 = 0xA ∧ fieldNNN 0xA123 = 0x123 ∧ fieldX 0xA123 = 0x1 ∧ fieldY 0xA123 = 0x2
    ∧ fieldKK 0xA123 = 0x23 ∧ fieldN 0xA123 = 0x3)
  ∧ decode [0xA1, 0x23] = .ok (.ldI 0x123, [])
  ∧ EncodedAs (.ldI 0x123) 0xA123 ∧ (∀ s : State, ∃ t : State, exec (.ldI 0x123) s = .next t ∧ t.i = 0x123)
  ∧ EncodedAs .ret 0x00EE ∧ EncodedAs (.jp 0xABC) 0x1ABC
  ∧ EncodedAs (.addReg 0xA 0xB) 0x8AB4 ∧ EncodedAs (.ldVxMem 0xF) 0xFF65
  ∧ EncodedAs (.drw 0x0 0x1 0xF) 0xD01F ∧ EncodedAs (.skp 0x5) 0xE59E

/-- No bit of an encoding is dropped (30_encoding.md R70, R72, R75). -/
def Obligations.DecodeInvertsEncode : Prop :=
  ∀ (i : Instr) (rest : List Byte), i.wf = true →
    decodeWord (encode i) = .ok i ∧ decode (encodeBytes i ++ rest) = .ok (i, rest)

/-- A recognized word is the encoding of what it decodes to, so two words never share an instruction (30_encoding.md R75,
R80). -/
def Obligations.RecognizedWordHasOneMeaning : Prop :=
  ∀ (w : Word) (i : Instr), decodeWord w = .ok i → encode i = w

/-- The decision tree is the opcode table: the row of the instruction selects the word, and a word is unrecognized exactly
when no row selects it (30_encoding.md R75, R78; exact matching is decision D10, log entry 14). -/
def Obligations.DecoderFollowsOpcodeTable : Prop :=
  ∀ w : Word,
    (∀ i, decodeWord w = .ok i → rowSelects (rowMask i, rowMatch i) w = true ∧ (rowMask i, rowMatch i) ∈ opcodeRows)
    ∧ (decodeWord w = .error (.unrecognized w) ↔ ∀ row ∈ opcodeRows, rowSelects row w = false)

/-- "The rows are mutually exclusive: no word matches two" (30_encoding.md R75). -/
def Obligations.NoWordSelectsTwoRows : Prop :=
  ∀ (w : Word), ∀ row ∈ opcodeRows, ∀ row' ∈ opcodeRows,
    rowSelects row w = true → rowSelects row' w = true → row = row'

/-! ### Reset and the host operations -/

/-- 10_state.md R39 and 70_reset_and_hazards.md R240, R241: the values not itemised by the source are decision D20, log
entry 15. Reset can be issued in every state. -/
def Obligations.ResetGivesResetState : Prop :=
  AtReset State.reset ∧ ∀ s : State, ∃ t : State, operate .reset s = .next t ∧ AtReset t ∧ t.loadOpen = true

/-- 70_reset_and_hazards.md R243 and 20_memory.md R64: the three results of a Load, and what it leaves alone. -/
def Obligations.LoadCopiesRomOrChangesNothing : Prop :=
  ∀ (rom : List Byte) (s : State), s.loadOpen = true → s.mem.wf = true →
    ∃ t : State, operate (.load rom) s = .next t
      ∧ (rom.length = 0 → t.loadOutcome = .romEmpty ∧ SameMem s t)
      ∧ (3584 < rom.length → t.loadOutcome = .romTooLarge rom.length ∧ SameMem s t)
      ∧ (1 ≤ rom.length → rom.length ≤ 3584 →
          t.loadOutcome = .ok
          ∧ (∀ (k : Nat) (h : k < rom.length), t.mem.read (0x200 + k) = rom[k])
          ∧ SameMemBut 0x200 rom.length s t)
      ∧ (AtReset s → t.pc = 0x200)
      ∧ t.pc = s.pc ∧ SameRegsBut [] s t ∧ SameIndex s t ∧ SameStack s t ∧ SameTimers s t ∧ SameScreen s t ∧ SameStatus s t
      ∧ t.outcome = s.outcome ∧ t.beep = s.beep ∧ t.inp = s.inp ∧ t.draws = s.draws

/-- 70_reset_and_hazards.md R242 (decision D19, log entry 9): a Load is accepted after a Reset and any Ticks and
ConsumeFrames, and refused after a Step or another Load. -/
def Obligations.LoadOnlyOnceAfterReset : Prop :=
  (∀ (rom : List Byte) (s : State), s.loadOpen = false → operate (.load rom) s = .refused .loadOutsideInterface)
  ∧ (∀ (inp : Inputs) (s t : State), operate (.step inp) s = .next t → t.loadOpen = false)
  ∧ (∀ (rom : List Byte) (s t : State), operate (.load rom) s = .next t → t.loadOpen = false)
  ∧ (∀ (ops : List HostOp) (s t : State), (∀ op ∈ ops, op = .tick ∨ op = .consumeFrame) →
      operateAll (.reset :: ops) s = .next t → t.loadOpen = true)

/-- 60_exceptions.md R213, R214 (the beep before the decrement is decision D17, Tick in every status D18; log entries 17
and 18). -/
def Obligations.TickDecrementsNonzeroTimers : Prop :=
  ∀ s : State, ∃ t : State, operate .tick s = .next t
    ∧ t.dt.toNat = s.dt.toNat - 1 ∧ t.st.toNat = s.st.toNat - 1
    ∧ (t.beep = true ↔ 0 < s.st.toNat)
    ∧ SameRegsBut [] s t ∧ SameMem s t ∧ SameIndex s t ∧ t.pc = s.pc ∧ SameStack s t ∧ SameScreen s t ∧ SameStatus s t
    ∧ t.outcome = s.outcome ∧ t.loadOutcome = s.loadOutcome ∧ t.inp = s.inp ∧ t.draws = s.draws ∧ t.loadOpen = s.loadOpen

/-- The law of 60_exceptions.md R213 for any number of Ticks in a row: max(0, start - n). -/
def Obligations.RepeatedTicksStopAtZero : Prop :=
  ∀ (n : Nat) (s : State),
    (ticks n s).dt.toNat = s.dt.toNat - n ∧ (ticks n s).st.toNat = s.st.toNat - n
    ∧ SameRegsBut [] s (ticks n s) ∧ SameMem s (ticks n s) ∧ (ticks n s).pc = s.pc ∧ SameStatus s (ticks n s)

/-- 60_exceptions.md R213 and 70_reset_and_hazards.md R249, with the side condition of 90_conflicts.md C9 for each timer on its
own (the two are independent): whatever Steps, Loads and ConsumeFrames lie between the Ticks, DT loses exactly one count a
Tick when no Step executes Fx15, and ST when no Step executes Fx18. -/
def Obligations.TimersCountTicksUnderEveryInterleaving : Prop :=
  ∀ (ops : List HostOp) (s t : State), operateAll ops s = .next t →
    (NoWrite writesDt ops s → t.dt.toNat = s.dt.toNat - tickCount ops)
    ∧ (NoWrite writesSt ops s → t.st.toNat = s.st.toNat - tickCount ops)

/-- 60_exceptions.md R220 (one atomic operation is decision D25, log entry 29). -/
def Obligations.ConsumeFrameSnapshotsAndClearsDirty : Prop :=
  ∀ s : State, (consumeFrame s).1 = s.fb
    ∧ ∃ t : State, operate .consumeFrame s = .next t ∧ t = (consumeFrame s).2 ∧ t.dirty = false ∧ t.fb = s.fb
      ∧ SameRegsBut [] s t ∧ SameMem s t ∧ SameIndex s t ∧ t.pc = s.pc ∧ SameStack s t ∧ SameTimers s t ∧ SameStatus s t
      ∧ t.outcome = s.outcome ∧ SameEnv s t

/-! ### The instruction cycle -/

/-- 30_encoding.md R74: a Running machine executes the instruction at PC; after it the host's next inputs are presented
(log entry 2) and a Load is outside the interface (log entry 9), and nothing else is added. -/
def Obligations.StepRunsTheDecodedInstruction : Prop :=
  ∀ (s : State) (i : Instr), s.status = .running → s.pc.toNat ≤ 0xFFE → i.wf = true →
    decode [s.mem.read s.pc.toNat, s.mem.read (s.pc.toNat + 1)] = .ok (i, []) →
      ∃ t : State, exec i s = .next t
        ∧ step s = .next { t with
            inp := { keyLevel := Config.keyLevel t.draws, keyEvent := Config.keyEvent t.draws, rand := Config.rand t.draws }
            draws := t.draws + 1
            loadOpen := false }

/-- 60_exceptions.md R205, 10_state.md R36 (decision D14, log entry 30): the reported no-op. The inputs, the count of Steps and
the load window are those of every Step (`StepRunsTheDecodedInstruction`). -/
def Obligations.UnrecognizedWordIsReportedNoOp : Prop :=
  ∀ (s : State) (w : Word), s.status = .running → s.pc.toNat ≤ 0xFFE →
    w.toNat = (s.mem.read s.pc.toNat).toNat * 256 + (s.mem.read (s.pc.toNat + 1)).toNat →
    (∀ row ∈ opcodeRows, rowSelects row w = false) →
      ∃ t : State, step s = .next t ∧ t.df = true ∧ t.dfword = w ∧ t.dfpc = s.pc ∧ t.pc = s.pc + 2
        ∧ t.outcome = .decodeFault s.pc w ∧ t.status = .running ∧ t.fcause = s.fcause ∧ t.finfo = s.finfo
        ∧ SameRegsBut [] s t ∧ SameMem s t ∧ SameIndex s t ∧ SameStack s t ∧ SameTimers s t ∧ SameScreen s t
        ∧ t.loadOutcome = s.loadOutcome ∧ t.beep = s.beep

/-- 20_memory.md R53, R58: the fetch reads PC and PC + 1, high byte first, whatever the parity of PC. -/
def Obligations.FetchIsBigEndianAtAnyParity : Prop :=
  ∀ s : State, s.pc.toNat ≤ 0xFFE →
    ∃ w : Word, fetch s = .ok w
      ∧ w.toNat = (s.mem.read s.pc.toNat).toNat * 256 + (s.mem.read (s.pc.toNat + 1)).toNat

/-- 20_memory.md R57, 60_exceptions.md R201, R203 (decision D12, log entry 7): a fetch above 0xFFE. -/
def Obligations.FetchOutOfRangeFaults : Prop :=
  ∀ s : State, s.status = .running → 0xFFE < s.pc.toNat →
    ∃ t : State, step s = .next t ∧ FaultTaken 1 (if s.pc.toNat = 0xFFF then 0x1000 else s.pc) s t
      ∧ t.loadOutcome = s.loadOutcome ∧ t.beep = s.beep

/-- 60_exceptions.md R204 (decision D12, log entry 6): however often Step is called, the recorded fault is returned and
nothing changes. -/
def Obligations.FaultedIsAbsorbing : Prop :=
  ∀ (k : Nat) (s : State), s.status = .faulted →
    ∃ t : State, Host.Core.run Sys2Proof.core k s = .next t
      ∧ t.status = .faulted ∧ t.fcause = s.fcause ∧ t.finfo = s.finfo ∧ SameUnderFault s t
      ∧ t.loadOutcome = s.loadOutcome ∧ t.beep = s.beep
      ∧ (0 < k → t.outcome = .fatal s.fcause s.finfo)

/-- 60_exceptions.md R200: the three fatal faults are states (R203), the decode fault is a reported no-op (R205), so a Step
always has a next state, and so has every instruction in every state. THE MODEL'S CHOICE in two points: a fatal fault is
taken as a next state (log entry 6, DEDUCED), and Fx29, Ex9E and ExA1 with Vx above 15 complete with a free value where
42_index_memory.md R152 and 44_keypad_timers.md R180, R181 also allow a model to refuse (log entries 4 and 5, DESIGN
CHOICE). -/
def Obligations.EveryStepHasANextState : Prop :=
  ∀ s : State, (∃ t : State, step s = .next t) ∧ ∀ i : Instr, ∃ t : State, exec i s = .next t

/-- 60_exceptions.md R202, R203 (decision D12, log entry 7): which instruction raises what, and that the fault is precise. -/
def Obligations.FatalFaultsArePrecise : Prop :=
  ∀ (i : Instr) (s t : State), s.status = .running → exec i s = .next t → t.status = .faulted →
    RaisesFault i s t.fcause t.finfo ∧ FaultTaken t.fcause t.finfo s t ∧ SameEnv s t

/-- 10_state.md R25: how each instruction advances PC (Bnnn not masked is decision D26, log entry 20; a fault leaves PC, D12, log
entry 7; a keypad skip above key 15 is one of the two, D6, log entry 5). -/
def Obligations.PcAdvancesByTheTable : Prop :=
  ∀ (i : Instr) (s t : State), exec i s = .next t → PcAfter i s t.pc

/-- 10_state.md R41 and R22: who writes what; in particular VF is written as a flag by exactly six instructions. -/
def Obligations.OnlyTheListedInstructionsWrite : Prop :=
  ∀ (i : Instr) (s t : State), exec i s = .next t →
    (∀ r : RegIx, writesReg i r = false → t.reg r = s.reg r)
    ∧ (writesIndex i = false → SameIndex s t)
    ∧ (writesSp i = false → t.sp = s.sp) ∧ (writesStack i = false → t.stack = s.stack)
    ∧ (writesMem i = false → SameMem s t)
    ∧ (writesScreen i = false → SameScreen s t)
    ∧ (writesDt i = false → t.dt = s.dt) ∧ (writesSt i = false → t.st = s.st)
    ∧ SameDecodeFault s t ∧ SameEnv s t

/-- 60_exceptions.md R212 (decision D1): only Ex9E, ExA1, Fx0A and Cxkk use the inputs; an input given to any other
instruction is ignored. -/
def Obligations.InputsAreIgnoredByOtherInstructions : Prop :=
  ∀ (i : Instr) (s t : State) (inp : Inputs), usesInputs i = false → exec i s = .next t →
    exec i (present inp s) = .next (present inp t)

/-- 70_reset_and_hazards.md R246, 30_encoding.md R84 and 40_control_flow.md R102 (that this is the end of a run is the model's
choice, decision D30, log entry 32): a machine that spins in
a jump to itself stays so, and nothing the spec calls state ever changes again. -/
def Obligations.FinishedRunsStayFinished : Prop :=
  ∀ (k : Nat) (s : State), Finished s →
    ∃ t : State, Host.Core.run Sys2Proof.core k s = .next t ∧ Finished t
      ∧ SameUnderFault s t ∧ SameStatus s t ∧ t.loadOutcome = s.loadOutcome ∧ t.beep = s.beep

/-! ### Invariants -/

/-- The reset state is a reachable state (10_state.md R40). -/
def Obligations.ResetMeetsTheInvariant : Prop := MachineInv State.reset

/-- 10_state.md R40, with memory's canonical form: every Step keeps the invariant, from every state that meets it. -/
def Obligations.StepKeepsTheInvariant : Prop :=
  ∀ s t : State, MachineInv s → step s = .next t → MachineInv t

/-- 10_state.md R40 for all five operations (60_exceptions.md R210). -/
def Obligations.HostOperationsKeepTheInvariant : Prop :=
  ∀ (op : HostOp) (s t : State), MachineInv s → operate op s = .next t → MachineInv t

/-! ### Control transfer -/

/-- 40_control_flow.md R102. -/
def Obligations.JumpSetsPc : Prop :=
  ∀ (nnn : Addr) (s : State),
    EncodedAs (.jp nnn) (0x1000 + nnn.toNat)
    ∧ ∃ t : State, exec (.jp nnn) s = .next t ∧ t.pc.toNat = nnn.toNat ∧ t.outcome = .ok ∧ OnlyPc s t
      ∧ (nnn = 0xFFF → fetch t = .error (.memoryOutOfRange 0x1000))

/-- 40_control_flow.md R101 and 10_state.md R29 (no increment is decision D2, log entry 16; the popped entry stays, D27, log
entry 25). -/
def Obligations.ReturnPopsPc : Prop :=
  EncodedAs .ret 0x00EE
  ∧ ∀ (s : State) (k : Fin 16), s.sp.val = k.val + 1 →
      ∃ t : State, exec .ret s = .next t ∧ t.pc = s.stack[k] ∧ t.sp.val = k.val ∧ t.stack = s.stack ∧ t.outcome = .ok
        ∧ OnlyStack s t

/-- 40_control_flow.md R101, 60_exceptions.md R203 (decision D12, log entry 7). -/
def Obligations.ReturnOnEmptyStackFaults : Prop :=
  ∀ s : State, s.sp.val = 0 → ∃ t : State, exec .ret s = .next t ∧ FaultTaken 3 s.pc s t ∧ SameEnv s t

/-- 40_control_flow.md R103 (p + 2 is decision D2, log entry 16). -/
def Obligations.CallPushesTheReturnAddress : Prop :=
  ∀ (nnn : Addr) (s : State),
    EncodedAs (.call nnn) (0x2000 + nnn.toNat)
    ∧ ∀ k : Fin 16, s.sp.val = k.val →
        ∃ t : State, exec (.call nnn) s = .next t ∧ t.pc.toNat = nnn.toNat ∧ t.sp.val = k.val + 1
          ∧ t.stack[k] = s.pc + 2 ∧ (∀ j : Fin 16, j ≠ k → t.stack[j] = s.stack[j]) ∧ t.outcome = .ok ∧ OnlyStack s t

/-- 40_control_flow.md R103, 60_exceptions.md R203 (decision D12, log entry 7). -/
def Obligations.CallOnFullStackFaults : Prop :=
  ∀ (nnn : Addr) (s : State), s.sp.val = 16 →
    ∃ t : State, exec (.call nnn) s = .next t ∧ FaultTaken 2 s.pc s t ∧ SameEnv s t

/-- 10_state.md R28: Push (that the entry written is STACK[SP] is an inference the spec marks), and the
17 calls (the code 2 is decision D13, log entry 8). -/
def Obligations.PushNeedsRoom : Prop :=
  (∀ (s : State) (w : Word),
    (∀ k : Fin 16, s.sp.val = k.val →
      ∃ t : State, push s w = .ok t ∧ t.stack[k] = w ∧ t.sp.val = k.val + 1 ∧ ∀ j : Fin 16, j ≠ k → t.stack[j] = s.stack[j])
    ∧ (16 ≤ s.sp.val → push s w = .error (.stackOverflow s.pc)))
  ∧ SeventeenthCallFaults

/-- 40_control_flow.md R109, instruction after instruction: a call, any balanced instructions and a return, executed without
a fault under one set of inputs, restore PC to p + 2 and leave the stack pointer and the live entries; and the 17 calls (the
code 2 is decision D13, log entry 8). -/
def Obligations.BalancedCallsReturnToTheCaller : Prop :=
  (∀ (nnn : Addr) (body : List Instr) (s t : State), Balanced body → s.status = .running →
    execAll (.call nnn :: body ++ [.ret]) s = .next t → t.status = .running →
      t.pc = s.pc + 2 ∧ t.sp = s.sp ∧ ∀ k : Fin 16, k.val < s.sp.val → t.stack[k] = s.stack[k])
  ∧ SeventeenthCallFaults

/-- 40_control_flow.md R109 over runs of the machine: between the Step that executes the call at p and the Step that executes
the return there may be Steps with any inputs, decode faults, Ticks and ConsumeFrames, as long as the instructions executed
are balanced and nothing faults. And when the Steps of a run from an empty stack execute 16 calls without a fault, SP is 16
and a 17th call is the fatal stack overflow (the code 2 is decision D13, log entry 8). -/
def Obligations.BalancedRunsReturnToTheCaller : Prop :=
  (∀ (nnn : Addr) (body : List Instr) (first last : Inputs) (mid : List HostOp) (s m t : State), Balanced body →
    (∀ op ∈ mid, op ≠ .reset) →
    executes (present first s) = some (.call nnn) →
    operateAll (.step first :: mid) s = .next m → executedIn (.step first :: mid) s = .call nnn :: body →
    executes (present last m) = some .ret → operate (.step last) m = .next t → t.status = .running →
      t.pc = s.pc + 2 ∧ t.sp = s.sp ∧ ∀ k : Fin 16, k.val < s.sp.val → t.stack[k] = s.stack[k])
  ∧ ∀ (targets : List Addr) (nnn : Addr) (last : Inputs) (ops : List HostOp) (s t : State), targets.length = 16 →
      s.sp.val = 0 → (∀ op ∈ ops, op ≠ .reset) → operateAll ops s = .next t → executedIn ops s = targets.map .call →
      executes (present last t) = some (.call nnn) →
        t.sp.val = 16
        ∧ ∃ u : State, operate (.step last) t = .next u ∧ u.status = .faulted ∧ u.fcause = 2 ∧ u.finfo = t.pc

/-- 40_control_flow.md R104 (not masked is decision D26, log entry 20). -/
def Obligations.IndexedJumpAddsV0 : Prop :=
  ∀ (nnn : Addr) (s : State),
    EncodedAs (.jpV0 nnn) (0xB000 + nnn.toNat)
    ∧ ∃ t : State, exec (.jpV0 nnn) s = .next t ∧ t.pc.toNat = nnn.toNat + (s.reg 0).toNat ∧ t.pc.toNat ≤ 0x10FE
      ∧ t.outcome = .ok ∧ OnlyPc s t

/-- 40_control_flow.md R105 and R106. -/
def Obligations.ImmediateSkips : Prop :=
  ∀ (x : RegIx) (kk : Byte) (s : State),
    EncodedAs (.seImm x kk) (0x3000 + x.toNat * 256 + kk.toNat)
    ∧ EncodedAs (.sneImm x kk) (0x4000 + x.toNat * 256 + kk.toNat)
    ∧ (∃ t : State, exec (.seImm x kk) s = .next t ∧ Retired (if s.reg x = kk then s.pc + 4 else s.pc + 2) t ∧ OnlyPc s t)
    ∧ ∃ t : State, exec (.sneImm x kk) s = .next t ∧ Retired (if s.reg x = kk then s.pc + 2 else s.pc + 4) t ∧ OnlyPc s t

/-- 40_control_flow.md R107 and R108 (that a word 5xyN or 9xyN with another low nibble is no instruction is decision D10, log
entry 14). -/
def Obligations.RegisterSkips : Prop :=
  ∀ (x y : RegIx) (s : State),
    EncodedAs (.seReg x y) (0x5000 + x.toNat * 256 + y.toNat * 16)
    ∧ EncodedAs (.sneReg x y) (0x9000 + x.toNat * 256 + y.toNat * 16)
    ∧ (∀ n : Nat, 0 < n → n < 16 → ∀ i : Instr,
        ¬EncodedAs i (0x5000 + x.toNat * 256 + y.toNat * 16 + n) ∧ ¬EncodedAs i (0x9000 + x.toNat * 256 + y.toNat * 16 + n))
    ∧ (∃ t : State, exec (.seReg x y) s = .next t
        ∧ Retired (if s.reg x = s.reg y then s.pc + 4 else s.pc + 2) t ∧ OnlyPc s t)
    ∧ ∃ t : State, exec (.sneReg x y) s = .next t
        ∧ Retired (if s.reg x = s.reg y then s.pc + 2 else s.pc + 4) t ∧ OnlyPc s t

/-! ### Register load, arithmetic, logic, shifts, random -/

/-- 41_alu.md R120 and R122. -/
def Obligations.LoadsAndMoves : Prop :=
  ∀ (x y : RegIx) (kk : Byte) (s : State),
    EncodedAs (.ldImm x kk) (0x6000 + x.toNat * 256 + kk.toNat)
    ∧ EncodedAs (.ldReg x y) (0x8000 + x.toNat * 256 + y.toNat * 16)
    ∧ (∃ t : State, exec (.ldImm x kk) s = .next t ∧ t.reg x = kk ∧ Retired (s.pc + 2) t ∧ OnlyRegs [x] s t)
    ∧ ∃ t : State, exec (.ldReg x y) s = .next t ∧ t.reg x = s.reg y ∧ Retired (s.pc + 2) t ∧ OnlyRegs [x] s t

/-- 41_alu.md R121: wraps, and VF is not written unless x = F. -/
def Obligations.AddImmediateWrapsWithoutFlag : Prop :=
  ∀ (x : RegIx) (kk : Byte) (s : State),
    EncodedAs (.addImm x kk) (0x7000 + x.toNat * 256 + kk.toNat)
    ∧ ∃ t : State, exec (.addImm x kk) s = .next t ∧ (t.reg x).toNat = ((s.reg x).toNat + kk.toNat) % 256
      ∧ Retired (s.pc + 2) t ∧ OnlyRegs [x] s t

/-- 41_alu.md R123, R124, R125: bit by bit, VF not written unless x = F. -/
def Obligations.BitwiseOperations : Prop :=
  ∀ (x y : RegIx) (s : State),
    EncodedAs (.orReg x y) (0x8001 + x.toNat * 256 + y.toNat * 16)
    ∧ EncodedAs (.andReg x y) (0x8002 + x.toNat * 256 + y.toNat * 16)
    ∧ EncodedAs (.xorReg x y) (0x8003 + x.toNat * 256 + y.toNat * 16)
    ∧ (∃ t : State, exec (.orReg x y) s = .next t
        ∧ (∀ k < 8, (t.reg x).getLsbD k = ((s.reg x).getLsbD k || (s.reg y).getLsbD k))
        ∧ Retired (s.pc + 2) t ∧ OnlyRegs [x] s t)
    ∧ (∃ t : State, exec (.andReg x y) s = .next t
        ∧ (∀ k < 8, (t.reg x).getLsbD k = ((s.reg x).getLsbD k && (s.reg y).getLsbD k))
        ∧ Retired (s.pc + 2) t ∧ OnlyRegs [x] s t)
    ∧ ∃ t : State, exec (.xorReg x y) s = .next t
        ∧ (∀ k < 8, (t.reg x).getLsbD k = ((s.reg x).getLsbD k ^^ (s.reg y).getLsbD k))
        ∧ Retired (s.pc + 2) t ∧ OnlyRegs [x] s t

/-- 41_alu.md R126: Vx, then VF = carry, so with x = F the carry is what stays. -/
def Obligations.AddSetsCarry : Prop :=
  ∀ (x y : RegIx) (s : State),
    EncodedAs (.addReg x y) (0x8004 + x.toNat * 256 + y.toNat * 16)
    ∧ ∃ t : State, exec (.addReg x y) s = .next t
      ∧ t.reg 15 = (if 255 < (s.reg x).toNat + (s.reg y).toNat then 1 else 0)
      ∧ (x ≠ 15 → (t.reg x).toNat = ((s.reg x).toNat + (s.reg y).toNat) % 256)
      ∧ Retired (s.pc + 2) t ∧ OnlyRegs [x, 15] s t

/-- 41_alu.md R127: VF = 1 when there is no borrow, then Vx; where VF is an operand the second line sees the flag (R134,
decision D9, log entry 10). -/
def Obligations.SubtractSetsNotBorrow : Prop :=
  ∀ (x y : RegIx) (s : State) (f : Nat), f = (if (s.reg y).toNat ≤ (s.reg x).toNat then 1 else 0) →
    EncodedAs (.sub x y) (0x8005 + x.toNat * 256 + y.toNat * 16)
    ∧ ∃ t : State, exec (.sub x y) s = .next t
      ∧ (x ≠ 15 → (t.reg 15).toNat = f)
      ∧ (x ≠ 15 → y ≠ 15 → (t.reg x).toNat = ((s.reg x).toNat + 256 - (s.reg y).toNat) % 256)
      ∧ (x ≠ 15 → y = 15 → (t.reg x).toNat = ((s.reg x).toNat + 256 - f) % 256)
      ∧ (x = 15 → y ≠ 15 → (t.reg 15).toNat = (f + 256 - (s.reg y).toNat) % 256)
      ∧ (x = 15 → y = 15 → t.reg 15 = 0)
      ∧ Retired (s.pc + 2) t ∧ OnlyRegs [x, 15] s t

/-- 41_alu.md R129, in the same way (R134, decision D9, log entry 10). -/
def Obligations.SubtractReversedSetsNotBorrow : Prop :=
  ∀ (x y : RegIx) (s : State) (f : Nat), f = (if (s.reg x).toNat ≤ (s.reg y).toNat then 1 else 0) →
    EncodedAs (.subn x y) (0x8007 + x.toNat * 256 + y.toNat * 16)
    ∧ ∃ t : State, exec (.subn x y) s = .next t
      ∧ (x ≠ 15 → (t.reg 15).toNat = f)
      ∧ (x ≠ 15 → y ≠ 15 → (t.reg x).toNat = ((s.reg y).toNat + 256 - (s.reg x).toNat) % 256)
      ∧ (x ≠ 15 → y = 15 → (t.reg x).toNat = (f + 256 - (s.reg x).toNat) % 256)
      ∧ (x = 15 → y ≠ 15 → (t.reg 15).toNat = ((s.reg y).toNat + 256 - f) % 256)
      ∧ (x = 15 → y = 15 → t.reg 15 = 0)
      ∧ Retired (s.pc + 2) t ∧ OnlyRegs [x, 15] s t

/-- 41_alu.md R128 and R130: by one, in place, y ignored (decision D22, log entry 26); with x = F the flag itself is shifted
(R134, decision D9, log entry 10). -/
def Obligations.ShiftsByOneInPlace : Prop :=
  ∀ (x y : RegIx) (s : State),
    EncodedAs (.shr x y) (0x8006 + x.toNat * 256 + y.toNat * 16)
    ∧ EncodedAs (.shl x y) (0x800E + x.toNat * 256 + y.toNat * 16)
    ∧ (∃ t : State, exec (.shr x y) s = .next t
        ∧ (x ≠ 15 → (t.reg 15).toNat = (s.reg x).toNat % 2 ∧ (t.reg x).toNat = (s.reg x).toNat / 2)
        ∧ (x = 15 → t.reg 15 = 0)
        ∧ Retired (s.pc + 2) t ∧ OnlyRegs [x, 15] s t)
    ∧ ∃ t : State, exec (.shl x y) s = .next t
        ∧ (x ≠ 15 → (t.reg 15).toNat = (s.reg x).toNat / 128 ∧ (t.reg x).toNat = (s.reg x).toNat * 2 % 256)
        ∧ (x = 15 → t.reg 15 = (if 0x80 ≤ (s.reg 15).toNat then 2 else 0))
        ∧ Retired (s.pc + 2) t ∧ OnlyRegs [x, 15] s t

/-- 41_alu.md R131, 60_exceptions.md R218 (the byte is an input, decision D16, log entry 2): for every byte the host
presents. -/
def Obligations.RandomByteIsMasked : Prop :=
  ∀ (x : RegIx) (kk : Byte) (s : State),
    EncodedAs (.rnd x kk) (0xC000 + x.toNat * 256 + kk.toNat)
    ∧ ∃ t : State, exec (.rnd x kk) s = .next t
      ∧ (∀ k < 8, (t.reg x).getLsbD k = (s.inp.rand.getLsbD k && kk.getLsbD k))
      ∧ Retired (s.pc + 2) t ∧ OnlyRegs [x] s t

/-! ### The address register and memory transfers -/

/-- 42_index_memory.md R150 and R151: I from an immediate, and I + Vx at 16 bits without flag or mask. -/
def Obligations.IndexLoadAndAdd : Prop :=
  ∀ (nnn : Addr) (x : RegIx) (s : State),
    EncodedAs (.ldI nnn) (0xA000 + nnn.toNat)
    ∧ EncodedAs (.addI x) (0xF01E + x.toNat * 256)
    ∧ (∃ t : State, exec (.ldI nnn) s = .next t ∧ t.i.toNat = nnn.toNat ∧ Retired (s.pc + 2) t ∧ OnlyIndex s t)
    ∧ ∃ t : State, exec (.addI x) s = .next t ∧ t.i.toNat = (s.i.toNat + (s.reg x).toNat) % 65536
        ∧ Retired (s.pc + 2) t ∧ OnlyIndex s t

/-- 42_index_memory.md R152: for a digit, FONT_BASE + 5 * Vx; above 15 the instruction completes with some value in I
(decision D5, log entry 4) and every other effect is the same. FONT_BASE is an open parameter (log entry 3). -/
def Obligations.GlyphAddress : Prop :=
  ∀ (x : RegIx) (s : State),
    EncodedAs (.ldF x) (0xF029 + x.toNat * 256)
    ∧ ∃ t : State, exec (.ldF x) s = .next t
      ∧ ((s.reg x).toNat ≤ 15 → t.i.toNat = Config.fontBase.val + 5 * (s.reg x).toNat)
      ∧ Retired (s.pc + 2) t ∧ OnlyIndex s t

/-- 42_index_memory.md R153: the three digits, or the fault (its code and address: decision D13, log
entry 8) with nothing stored (decision D12, log entry 7). -/
def Obligations.DecimalDigitsAreStored : Prop :=
  ∀ (x : RegIx) (s : State), s.mem.wf = true →
    EncodedAs (.ldB x) (0xF033 + x.toNat * 256)
    ∧ (s.i.toNat ≤ 0xFFD →
        ∃ t : State, exec (.ldB x) s = .next t
          ∧ (t.mem.read s.i.toNat).toNat = (s.reg x).toNat / 100
          ∧ (t.mem.read (s.i.toNat + 1)).toNat = (s.reg x).toNat / 10 % 10
          ∧ (t.mem.read (s.i.toNat + 2)).toNat = (s.reg x).toNat % 10
          ∧ SameMemBut s.i.toNat 3 s t ∧ Retired (s.pc + 2) t ∧ OnlyMem s t)
    ∧ (0xFFD < s.i.toNat →
        ∃ t : State, exec (.ldB x) s = .next t
          ∧ FaultTaken 1 (if s.i.toNat < 0x1000 then 0x1000 else s.i) s t ∧ SameEnv s t)

/-- 42_index_memory.md R154: V0 to Vx to memory, I unchanged (decision D8, log entry 12). -/
def Obligations.RegisterBlockIsStored : Prop :=
  ∀ (x : RegIx) (s : State), s.mem.wf = true → s.i.toNat + x.toNat ≤ 0xFFF →
    EncodedAs (.ldMemVx x) (0xF055 + x.toNat * 256)
    ∧ ∃ t : State, exec (.ldMemVx x) s = .next t
      ∧ (∀ r : RegIx, r.toNat ≤ x.toNat → t.mem.read (s.i.toNat + r.toNat) = s.reg r)
      ∧ SameMemBut s.i.toNat (x.toNat + 1) s t ∧ Retired (s.pc + 2) t ∧ OnlyMem s t

/-- 42_index_memory.md R155: memory to V0 to Vx, I unchanged (decision D8, log entry 12). -/
def Obligations.RegisterBlockIsLoaded : Prop :=
  ∀ (x : RegIx) (s : State), s.i.toNat + x.toNat ≤ 0xFFF →
    EncodedAs (.ldVxMem x) (0xF065 + x.toNat * 256)
    ∧ ∃ t : State, exec (.ldVxMem x) s = .next t
      ∧ (∀ r : RegIx, r.toNat ≤ x.toNat → t.reg r = s.mem.read (s.i.toNat + r.toNat))
      ∧ (∀ r : RegIx, x.toNat < r.toNat → t.reg r = s.reg r)
      ∧ SameMem s t ∧ SameIndex s t ∧ SameStack s t ∧ SameTimers s t ∧ SameScreen s t ∧ SameStatus s t ∧ SameEnv s t
      ∧ Retired (s.pc + 2) t

/-- 42_index_memory.md R156, 20_memory.md R57, R60 (decisions D7, D12, D13; log entries 7, 8, 11): a range above 0xFFF is a fatal
fault with the lowest address out of range, and nothing of it happens. -/
def Obligations.TransferOutOfRangeFaults : Prop :=
  ∀ (x y : RegIx) (n : BitVec 4) (s : State),
    (0xFFF < s.i.toNat + x.toNat →
      (∃ t : State, exec (.ldMemVx x) s = .next t
        ∧ FaultTaken 1 (if s.i.toNat < 0x1000 then 0x1000 else s.i) s t ∧ SameEnv s t)
      ∧ ∃ t : State, exec (.ldVxMem x) s = .next t
        ∧ FaultTaken 1 (if s.i.toNat < 0x1000 then 0x1000 else s.i) s t ∧ SameEnv s t)
    ∧ (n ≠ 0 → 0xFFF < s.i.toNat + (n.toNat - 1) →
      ∃ t : State, exec (.drw x y n) s = .next t
        ∧ FaultTaken 1 (if s.i.toNat < 0x1000 then 0x1000 else s.i) s t ∧ SameEnv s t)

/-- 20_memory.md R63: whatever I and x are, the fetch right after Fx55 or Fx33 stored in range reads, of the bytes at PC + 2
and PC + 3, those that were stored over with their new values and the others as they were. -/
def Obligations.StoreIsSeenByTheNextFetch : Prop :=
  ∀ (x : RegIx) (s : State), s.mem.wf = true → s.pc.toNat + 2 ≤ 0xFFE →
    (s.i.toNat + x.toNat ≤ 0xFFF →
      ∃ (t : State) (w : Word), exec (.ldMemVx x) s = .next t ∧ fetch t = .ok w
        ∧ w.toNat = blockByte s x (s.pc.toNat + 2) * 256 + blockByte s x (s.pc.toNat + 3))
    ∧ (s.i.toNat ≤ 0xFFD →
      ∃ (t : State) (w : Word), exec (.ldB x) s = .next t ∧ fetch t = .ok w
        ∧ w.toNat = digitByte s x (s.pc.toNat + 2) * 256 + digitByte s x (s.pc.toNat + 3))

/-! ### The framebuffer -/

/-- 43_display.md R171. -/
def Obligations.ClearUnsetsEveryPixel : Prop :=
  EncodedAs .cls 0x00E0
  ∧ ∀ s : State, ∃ t : State, exec .cls s = .next t
      ∧ (∀ y x, pixel t.fb y x = false) ∧ t.dirty = true ∧ Retired (s.pc + 2) t ∧ OnlyScreen [] s t

/-- 43_display.md R172 (operands read first and DIRTY always set are decision D24, log entry 28): the drawing loop XORs each
pixel with the sprite bit that falls on it, VF says whether a set pixel was unset, and n = 0 draws nothing. -/
def Obligations.DrawXorsTheSprite : Prop :=
  ∀ (x y : RegIx) (n : BitVec 4) (s : State),
    EncodedAs (.drw x y n) (0xD000 + x.toNat * 256 + y.toNat * 16 + n.toNat)
    ∧ (n = 0 ∨ s.i.toNat + (n.toNat - 1) ≤ 0xFFF →
        ∃ t : State, exec (.drw x y n) s = .next t
          ∧ (∀ py px, pixel t.fb py px = (pixel s.fb py px ^^ spriteHits s x y n py px))
          ∧ ((∃ py px, pixel s.fb py px = true ∧ pixel t.fb py px = false) → t.reg 15 = 1)
          ∧ ((¬∃ py px, pixel s.fb py px = true ∧ pixel t.fb py px = false) → t.reg 15 = 0)
          ∧ t.dirty = true ∧ Retired (s.pc + 2) t ∧ OnlyScreen [15] s t)

/-- 43_display.md R173, with the exact condition of its second half (90_conflicts.md C6). -/
def Obligations.DrawingTwiceRestoresTheScreen : Prop :=
  ∀ (x y : RegIx) (n : BitVec 4) (s : State), x ≠ 15 → y ≠ 15 → n = 0 ∨ s.i.toNat + (n.toNat - 1) ≤ 0xFFF →
    ∃ t u : State, exec (.drw x y n) s = .next t ∧ exec (.drw x y n) t = .next u
      ∧ (∀ py px, pixel u.fb py px = pixel s.fb py px)
      ∧ ((∃ py px, spriteHits s x y n py px = true ∧ pixel s.fb py px = false) → u.reg 15 = 1)
      ∧ ((¬∃ py px, spriteHits s x y n py px = true ∧ pixel s.fb py px = false) → u.reg 15 = 0)

/-! ### Keypad and timers -/

/-- 44_keypad_timers.md R180 and R181: by the level of the key for a key 0 to 15; above 15 the instruction completes with
either outcome (decision D6, log entry 5). -/
def Obligations.KeypadSkips : Prop :=
  ∀ (x : RegIx) (s : State),
    EncodedAs (.skp x) (0xE09E + x.toNat * 256)
    ∧ EncodedAs (.sknp x) (0xE0A1 + x.toNat * 256)
    ∧ (∃ t : State, exec (.skp x) s = .next t
        ∧ ((s.reg x).toNat ≤ 15 → t.pc = if s.inp.keyLevel.getLsbD (s.reg x).toNat then s.pc + 4 else s.pc + 2)
        ∧ (t.pc = s.pc + 2 ∨ t.pc = s.pc + 4) ∧ t.outcome = .ok ∧ OnlyPc s t)
    ∧ ∃ t : State, exec (.sknp x) s = .next t
        ∧ ((s.reg x).toNat ≤ 15 → t.pc = if s.inp.keyLevel.getLsbD (s.reg x).toNat then s.pc + 2 else s.pc + 4)
        ∧ (t.pc = s.pc + 2 ∨ t.pc = s.pc + 4) ∧ t.outcome = .ok ∧ OnlyPc s t

/-- 44_keypad_timers.md R182 (events come from the host and are not latched, decision D15, log entry 19). -/
def Obligations.KeyWaitEndsWithAnEvent : Prop :=
  ∀ (x : RegIx) (s : State),
    EncodedAs (.ldVxK x) (0xF00A + x.toNat * 256)
    ∧ (s.inp.keyEvent = none →
        ∃ t : State, exec (.ldVxK x) s = .next t ∧ t.outcome = .waitingForKey ∧ t.pc = s.pc ∧ OnlyPc s t)
    ∧ ∀ k : BitVec 4, s.inp.keyEvent = some k →
        ∃ t : State, exec (.ldVxK x) s = .next t ∧ (t.reg x).toNat = k.toNat ∧ Retired (s.pc + 2) t ∧ OnlyRegs [x] s t

/-- 44_keypad_timers.md R183 and R184, and what R185 says of the instruction itself (the beeps are Tick's, R214). -/
def Obligations.TimerInstructions : Prop :=
  ∀ (x : RegIx) (s : State),
    EncodedAs (.ldVxDt x) (0xF007 + x.toNat * 256)
    ∧ EncodedAs (.ldDtVx x) (0xF015 + x.toNat * 256)
    ∧ EncodedAs (.ldStVx x) (0xF018 + x.toNat * 256)
    ∧ (∃ t : State, exec (.ldVxDt x) s = .next t ∧ t.reg x = s.dt ∧ Retired (s.pc + 2) t ∧ OnlyRegs [x] s t)
    ∧ (∃ t : State, exec (.ldDtVx x) s = .next t ∧ t.dt = s.reg x ∧ t.st = s.st ∧ Retired (s.pc + 2) t ∧ OnlyTimers s t)
    ∧ ∃ t : State, exec (.ldStVx x) s = .next t ∧ t.st = s.reg x ∧ t.dt = s.dt ∧ Retired (s.pc + 2) t ∧ OnlyTimers s t
end

