-- ==== Sys2Proof/Laws/Decode.lean ====
section
/-! SUPPORT. The bits of the three word layouts, and the fields and masks read from them. -/

namespace Sys2Proof

theorem packNNN_getLsbD (c : BitVec 4) (nnn : Addr) (k : Nat) :
    (packNNN c nnn).getLsbD k = if k < 12 then nnn.getLsbD k else c.getLsbD (k - 12) := by
  have := BitVec.getLsbD_append (x := c) (y := nnn) (i := k)
  simpa [packNNN] using this

theorem packXKK_getLsbD (c : BitVec 4) (x : RegIx) (kk : Byte) (k : Nat) :
    (packXKK c x kk).getLsbD k
      = if k < 8 then kk.getLsbD k else if k < 12 then x.getLsbD (k - 8) else c.getLsbD (k - 12) := by
  have h : (packXKK c x kk).getLsbD k = ((c ++ x) ++ kk).getLsbD k := rfl
  rw [h, BitVec.getLsbD_append, BitVec.getLsbD_append]
  by_cases h1 : k < 8
  · simp [h1]
  · by_cases h2 : k < 12
    · simp [h1, h2, show k - 8 < 4 by omega]
    · simp [h1, h2, show ¬(k - 8 < 4) by omega, show k - 8 - 4 = k - 12 by omega]

theorem packXYN_getLsbD (c : BitVec 4) (x y : RegIx) (n : BitVec 4) (k : Nat) :
    (packXYN c x y n).getLsbD k
      = if k < 4 then n.getLsbD k else if k < 8 then y.getLsbD (k - 4)
        else if k < 12 then x.getLsbD (k - 8) else c.getLsbD (k - 12) := by
  have h : (packXYN c x y n).getLsbD k = (((c ++ x) ++ y) ++ n).getLsbD k := rfl
  rw [h, BitVec.getLsbD_append, BitVec.getLsbD_append, BitVec.getLsbD_append]
  by_cases h1 : k < 4
  · simp [h1]
  · by_cases h2 : k < 8
    · simp [h1, h2, show k - 4 < 4 by omega]
    · by_cases h3 : k < 12
      · simp [h1, h2, h3, show ¬(k - 4 < 4) by omega, show k - 8 < 4 by omega, show k - 4 - 4 = k - 8 by omega]
      · simp [h1, h2, h3, show ¬(k - 4 < 4) by omega, show ¬(k - 4 - 4 < 4) by omega,
          show k - 4 - 4 - 4 = k - 12 by omega]

/-! ### Fields of a packed word -/

@[simp] theorem fieldClass_packNNN (c : BitVec 4) (nnn : Addr) : fieldClass (packNNN c nnn) = c := by
  apply BitVec.eq_of_getLsbD_eq
  intro k hk
  simp [fieldClass, packNNN_getLsbD, hk]

@[simp] theorem fieldNNN_packNNN (c : BitVec 4) (nnn : Addr) : fieldNNN (packNNN c nnn) = nnn := by
  apply BitVec.eq_of_getLsbD_eq
  intro k hk
  simp [fieldNNN, packNNN_getLsbD, hk]

@[simp] theorem fieldClass_packXKK (c : BitVec 4) (x : RegIx) (kk : Byte) : fieldClass (packXKK c x kk) = c := by
  apply BitVec.eq_of_getLsbD_eq
  intro k hk
  simp [fieldClass, packXKK_getLsbD, hk, show ¬(12 + k < 8) by omega]

@[simp] theorem fieldX_packXKK (c : BitVec 4) (x : RegIx) (kk : Byte) : fieldX (packXKK c x kk) = x := by
  apply BitVec.eq_of_getLsbD_eq
  intro k hk
  simp [fieldX, packXKK_getLsbD, hk, show 8 + k < 12 by omega]

@[simp] theorem fieldKK_packXKK (c : BitVec 4) (x : RegIx) (kk : Byte) : fieldKK (packXKK c x kk) = kk := by
  apply BitVec.eq_of_getLsbD_eq
  intro k hk
  simp [fieldKK, packXKK_getLsbD, hk]

@[simp] theorem fieldClass_packXYN (c : BitVec 4) (x y : RegIx) (n : BitVec 4) : fieldClass (packXYN c x y n) = c := by
  apply BitVec.eq_of_getLsbD_eq
  intro k hk
  simp [fieldClass, packXYN_getLsbD, hk, show ¬(12 + k < 4) by omega, show ¬(12 + k < 8) by omega]

@[simp] theorem fieldX_packXYN (c : BitVec 4) (x y : RegIx) (n : BitVec 4) : fieldX (packXYN c x y n) = x := by
  apply BitVec.eq_of_getLsbD_eq
  intro k hk
  simp [fieldX, packXYN_getLsbD, hk, show 8 + k < 12 by omega, show ¬(8 + k < 4) by omega]

@[simp] theorem fieldY_packXYN (c : BitVec 4) (x y : RegIx) (n : BitVec 4) : fieldY (packXYN c x y n) = y := by
  apply BitVec.eq_of_getLsbD_eq
  intro k hk
  simp [fieldY, packXYN_getLsbD, hk, show 4 + k < 8 by omega]

@[simp] theorem fieldN_packXYN (c : BitVec 4) (x y : RegIx) (n : BitVec 4) : fieldN (packXYN c x y n) = n := by
  apply BitVec.eq_of_getLsbD_eq
  intro k hk
  simp [fieldN, packXYN_getLsbD, hk]

/-! ### A word is packed from its fields -/

theorem packNNN_fields (w : Word) : packNNN (fieldClass w) (fieldNNN w) = w := by
  apply BitVec.eq_of_getLsbD_eq
  intro k hk
  rw [packNNN_getLsbD]
  split
  · simp [fieldNNN]; omega
  · simp [fieldClass, show k - 12 < 4 by omega, show 12 + (k - 12) = k by omega]

theorem packXKK_fields (w : Word) : packXKK (fieldClass w) (fieldX w) (fieldKK w) = w := by
  apply BitVec.eq_of_getLsbD_eq
  intro k hk
  rw [packXKK_getLsbD]
  split
  · simp [fieldKK]; omega
  · split
    · simp [fieldX, show k - 8 < 4 by omega, show 8 + (k - 8) = k by omega]
    · simp [fieldClass, show k - 12 < 4 by omega, show 12 + (k - 12) = k by omega]

theorem packXYN_fields (w : Word) : packXYN (fieldClass w) (fieldX w) (fieldY w) (fieldN w) = w := by
  apply BitVec.eq_of_getLsbD_eq
  intro k hk
  rw [packXYN_getLsbD]
  split
  · simp [fieldN]; omega
  · split
    · simp [fieldY, show k - 4 < 4 by omega, show 4 + (k - 4) = k by omega]
    · split
      · simp [fieldX, show k - 8 < 4 by omega, show 8 + (k - 8) = k by omega]
      · simp [fieldClass, show k - 12 < 4 by omega, show 12 + (k - 12) = k by omega]

/-! ### Masks of a packed word, by format (30_encoding.md R72) -/

theorem packNNN_mask (c : BitVec 4) (nnn : Addr) : packNNN c nnn &&& 0xF000 = packNNN c 0 := by
  apply BitVec.eq_of_getLsbD_eq
  intro k hk
  rw [BitVec.getLsbD_and, packNNN_getLsbD, packNNN_getLsbD]
  interval_cases k <;> simp

theorem packXKK_mask_class (c : BitVec 4) (x : RegIx) (kk : Byte) : packXKK c x kk &&& 0xF000 = packXKK c 0 0 := by
  apply BitVec.eq_of_getLsbD_eq
  intro k hk
  rw [BitVec.getLsbD_and, packXKK_getLsbD, packXKK_getLsbD]
  interval_cases k <;> simp

theorem packXKK_mask_kk (c : BitVec 4) (x : RegIx) (kk : Byte) : packXKK c x kk &&& 0xF0FF = packXKK c 0 kk := by
  apply BitVec.eq_of_getLsbD_eq
  intro k hk
  rw [BitVec.getLsbD_and, packXKK_getLsbD, packXKK_getLsbD]
  interval_cases k <;> simp

theorem packXYN_mask_class (c : BitVec 4) (x y : RegIx) (n : BitVec 4) :
    packXYN c x y n &&& 0xF000 = packXYN c 0 0 0 := by
  apply BitVec.eq_of_getLsbD_eq
  intro k hk
  rw [BitVec.getLsbD_and, packXYN_getLsbD, packXYN_getLsbD]
  interval_cases k <;> simp

theorem packXYN_mask_n (c : BitVec 4) (x y : RegIx) (n : BitVec 4) :
    packXYN c x y n &&& 0xF00F = packXYN c 0 0 n := by
  apply BitVec.eq_of_getLsbD_eq
  intro k hk
  rw [BitVec.getLsbD_and, packXYN_getLsbD, packXYN_getLsbD]
  interval_cases k <;> simp

/-! ### Bytes of a word (20_memory.md R53) -/

/-- The two bytes of a word, high byte first, are the word again. -/
@[simp] theorem wordOfBytes_highByte_lowByte (w : Word) : wordOfBytes (highByte w) (lowByte w) = w := by
  apply BitVec.eq_of_toNat_eq
  have := w.isLt
  simp [wordOfBytes, highByte, lowByte, Nat.shiftRight_eq_div_pow]
  omega

end Sys2Proof
end

