-- ==== Sys2Proof/Laws/Memory.lean ====
section
/-! SUPPORT. The laws of memory: reading what was written, leaving the rest alone, keeping the canonical form. -/

namespace Sys2Proof.Machine

/-- An unlisted address reads as a font byte inside the font and as 0 outside it; the font ends below 0x200. -/
theorem unlisted_eq (a : Nat) :
    unlisted a
      = if Config.fontBase.val ≤ a ∧ a < Config.fontBase.val + 80 then Config.fontByte (a - Config.fontBase.val) else 0 := by
  have := Config.fontBase.isLt
  unfold unlisted
  by_cases h : Config.progBase ≤ a
  · rw [if_pos h, if_neg (by unfold Config.progBase at h; omega)]
  · rw [if_neg h]; rfl

@[simp] theorem Memory.read_nil (a : Nat) : Memory.read [] a = unlisted a := rfl

theorem Memory.read_cons (k : Nat) (b : Byte) (m : Memory) (a : Nat) :
    Memory.read ((k, b) :: m) a = if a = k then b else Memory.read m a := rfl

/-- Below every listed address memory reads its reset contents. -/
theorem Memory.read_of_lt {lo : Nat} {m : Memory} (h : m.wfFrom lo = true) {a : Nat} (ha : a < lo) :
    m.read a = unlisted a := by
  induction m generalizing lo with
  | nil => rfl
  | cons c m ih =>
    obtain ⟨k, b⟩ := c
    simp only [Memory.wfFrom, Bool.and_eq_true, decide_eq_true_eq] at h
    rw [Memory.read_cons, if_neg (by omega)]
    exact ih h.2 (by omega)

/-- A canonical list from an address on is one from any lower address on. -/
theorem Memory.wfFrom_mono {lo lo' : Nat} {m : Memory} (h : m.wfFrom lo = true) (hl : lo' ≤ lo) :
    m.wfFrom lo' = true := by
  cases m with
  | nil => rfl
  | cons c m =>
    obtain ⟨k, b⟩ := c
    simp only [Memory.wfFrom, Bool.and_eq_true, decide_eq_true_eq] at h ⊢
    exact ⟨⟨⟨by omega, h.1.1.2⟩, h.1.2⟩, h.2⟩

theorem Memory.read_put (m : Memory) (a : Nat) (b : Byte) (a' : Nat) :
    (Memory.put a b m).read a' = if a' = a then b else m.read a' := by
  induction m with
  | nil => rfl
  | cons c m ih =>
    obtain ⟨k, d⟩ := c
    simp only [Memory.put]
    split
    · rfl
    · split
      · subst a; simp only [Memory.read_cons]; split <;> rfl
      · simp only [Memory.read_cons, ih]
        split <;> split <;> first | rfl | omega

theorem Memory.read_remove {lo : Nat} {m : Memory} (h : m.wfFrom lo = true) (a a' : Nat) :
    (Memory.remove a m).read a' = if a' = a then unlisted a else m.read a' := by
  induction m generalizing lo with
  | nil => simp only [Memory.remove, Memory.read_nil]; split <;> simp_all
  | cons c m ih =>
    obtain ⟨k, d⟩ := c
    simp only [Memory.wfFrom, Bool.and_eq_true, decide_eq_true_eq] at h
    simp only [Memory.remove]
    split
    · by_cases e : a' = a
      · subst e
        rw [if_pos rfl, Memory.read_cons, if_neg (by omega), Memory.read_of_lt h.2 (by omega)]
      · rw [if_neg e]
    · split
      · subst a
        by_cases e : a' = k
        · subst e; rw [if_pos rfl, Memory.read_of_lt h.2 (by omega)]
        · rw [if_neg e, Memory.read_cons, if_neg e]
      · simp only [Memory.read_cons, ih h.2]
        split <;> split <;> first | rfl | omega

/-- A read after a write: the written byte at its address, the old byte at every other. -/
theorem Memory.read_write {m : Memory} (h : m.wf = true) (a : Nat) (b : Byte) (a' : Nat) :
    (m.write a b).read a' = if a' = a then b else m.read a' := by
  unfold Memory.write
  split
  · rw [Memory.read_remove h]; split <;> simp_all
  · exact Memory.read_put m a b a'

/-- A write leaves every other address alone, whatever the form of memory. -/
theorem Memory.read_write_other (m : Memory) (a : Nat) (b : Byte) {a' : Nat} (h : a' ≠ a) :
    (m.write a b).read a' = m.read a' := by
  unfold Memory.write
  split
  · clear * - h
    induction m with
    | nil => rfl
    | cons c m ih =>
      obtain ⟨k, d⟩ := c
      simp only [Memory.remove]
      split
      · rfl
      · split
        · subst a; rw [Memory.read_cons, if_neg h]
        · simp only [Memory.read_cons, ih]
  · rw [Memory.read_put, if_neg h]

theorem Memory.put_wfFrom {lo : Nat} {m : Memory} (h : m.wfFrom lo = true) {a : Nat} {b : Byte} (hl : lo ≤ a)
    (ha : a ≤ Config.addrMax) (hb : b ≠ unlisted a) : (Memory.put a b m).wfFrom lo = true := by
  induction m generalizing lo with
  | nil => simp [Memory.put, Memory.wfFrom, hl, ha, hb]
  | cons c m ih =>
    obtain ⟨k, d⟩ := c
    have h0 := h
    simp only [Memory.wfFrom, Bool.and_eq_true, decide_eq_true_eq] at h
    simp only [Memory.put]
    split
    · simp only [Memory.wfFrom, Bool.and_eq_true, decide_eq_true_eq, bne_iff_ne]
      exact ⟨⟨⟨hl, ha⟩, hb⟩, ⟨⟨⟨by omega, h.1.1.2⟩, by simpa using h.1.2⟩, h.2⟩⟩
    · split
      · subst a
        simp only [Memory.wfFrom, Bool.and_eq_true, decide_eq_true_eq, bne_iff_ne]
        exact ⟨⟨⟨hl, ha⟩, hb⟩, h.2⟩
      · simp only [Memory.wfFrom, Bool.and_eq_true, decide_eq_true_eq]
        exact ⟨h.1, ih h.2 (by omega)⟩

theorem Memory.remove_wfFrom {lo : Nat} {m : Memory} (h : m.wfFrom lo = true) (a : Nat) :
    (Memory.remove a m).wfFrom lo = true := by
  induction m generalizing lo with
  | nil => rfl
  | cons c m ih =>
    obtain ⟨k, d⟩ := c
    have h0 := h
    simp only [Memory.wfFrom, Bool.and_eq_true, decide_eq_true_eq] at h
    simp only [Memory.remove]
    split
    · exact h0
    · split
      · exact Memory.wfFrom_mono h.2 (by omega)
      · simp only [Memory.wfFrom, Bool.and_eq_true, decide_eq_true_eq]
        exact ⟨h.1, ih h.2⟩

/-- A write to an address that exists keeps the canonical form. -/
theorem Memory.write_wf {m : Memory} (h : m.wf = true) {a : Nat} (ha : a ≤ Config.addrMax) (b : Byte) :
    (m.write a b).wf = true := by
  unfold Memory.write
  split
  · exact Memory.remove_wfFrom h a
  · exact Memory.put_wfFrom h (Nat.zero_le a) ha (by assumption)

/-- A store to addresses that exist keeps the canonical form. -/
theorem Memory.store_wf {m : Memory} (h : m.wf = true) (a : Nat) (bs : List Byte)
    (ha : a + bs.length ≤ Config.addrMax + 1) : (m.store a bs).wf = true := by
  induction bs generalizing m a with
  | nil => exact h
  | cons b bs ih =>
    simp only [List.length_cons] at ha
    exact ih (Memory.write_wf h (by omega) b) (a + 1) (by omega)

/-- A store leaves every byte outside it alone, whatever the form of memory. -/
theorem Memory.read_store_other (m : Memory) (a : Nat) (bs : List Byte) {a' : Nat}
    (h : a' < a ∨ a + bs.length ≤ a') : (m.store a bs).read a' = m.read a' := by
  induction bs generalizing m a with
  | nil => rfl
  | cons b bs ih =>
    simp only [List.length_cons] at h
    simp only [Memory.store]
    rw [ih _ _ (by omega), Memory.read_write_other _ _ _ (by omega)]

/-- A store puts byte k at the address a + k. -/
theorem Memory.read_store {m : Memory} (h : m.wf = true) (a : Nat) (bs : List Byte)
    (ha : a + bs.length ≤ Config.addrMax + 1) {k : Nat} (hk : k < bs.length) :
    (m.store a bs).read (a + k) = bs[k] := by
  induction bs generalizing m a k with
  | nil => exact absurd hk (Nat.not_lt_zero k)
  | cons b bs ih =>
    simp only [List.length_cons] at ha hk
    have hw : (m.write a b).wf = true := Memory.write_wf h (by omega) b
    simp only [Memory.store]
    cases k with
    | zero =>
      rw [Memory.read_store_other _ _ _ (by omega), Memory.read_write h, if_pos (by omega)]; rfl
    | succ k =>
      have := ih hw (a + 1) (by omega) (k := k) (by omega)
      rw [show a + 1 + k = a + (k + 1) by omega] at this
      simpa using this

@[simp] theorem Memory.load_length (m : Memory) (a n : Nat) : (m.load a n).length = n := by
  induction n generalizing a with
  | zero => rfl
  | succ n ih => simp [Memory.load, ih]

/-- Byte k of a load is the byte at the address a + k. -/
theorem Memory.load_getElem (m : Memory) (a n : Nat) {k : Nat} (hk : k < (m.load a n).length) :
    (m.load a n)[k] = m.read (a + k) := by
  induction n generalizing a k with
  | zero => simp [Memory.load] at hk
  | succ n ih =>
    cases k with
    | zero => rfl
    | succ k =>
      simp only [Memory.load, List.getElem_cons_succ]
      rw [ih (a + 1), show a + 1 + k = a + (k + 1) by omega]

/-- Memory right after reset is in its canonical form. -/
theorem State.reset_mem_wf : State.reset.mem.wf = true := rfl

/-- MemRead(a, 1): the byte, or the fault with the address (20_memory.md R57). -/
theorem memRead_spec (m : Memory) (a : Nat) :
    (a ≤ 0xFFF ∧ memRead m a = .ok (m.read a))
    ∨ (0xFFF < a ∧ memRead m a = .error (.memoryOutOfRange (BitVec.ofNat 16 a))) := by
  unfold memRead Config.addrMax
  split
  · exact .inl ⟨by assumption, rfl⟩
  · exact .inr ⟨by omega, rfl⟩

/-- The fetch: a big-endian word from PC and PC + 1, or the fault with the lowest address out of range. -/
theorem fetch_spec (s : State) :
    (s.pc.toNat ≤ 0xFFE ∧ fetch s = .ok (wordOfBytes (s.mem.read s.pc.toNat) (s.mem.read (s.pc.toNat + 1))))
    ∨ (s.pc.toNat = 0xFFF ∧ fetch s = .error (.memoryOutOfRange 0x1000))
    ∨ (0xFFF < s.pc.toNat ∧ fetch s = .error (.memoryOutOfRange s.pc)) := by
  unfold fetch memReadWord
  rcases memRead_spec s.mem s.pc.toNat with ⟨h, e⟩ | ⟨h, e⟩
  · rcases memRead_spec s.mem (s.pc.toNat + 1) with ⟨h', e'⟩ | ⟨h', -⟩
    · exact .inl ⟨by omega, by simp only [e, e']⟩
    · refine .inr (.inl ⟨by omega, ?_⟩)
      rw [show s.pc.toNat = 0xFFF by omega]; rfl
  · exact .inr (.inr ⟨h, by simp only [e]; simp⟩)

/-- A data range: in range, or the fault with max(base, 0x1000). -/
theorem inRange_spec (base : Word) (len : Nat) (t : State) :
    ((len = 0 ∨ base.toNat + (len - 1) ≤ 0xFFF) ∧ inRange base len t = .ok t)
    ∨ ((len ≠ 0 ∧ 0xFFF < base.toNat + (len - 1))
        ∧ inRange base len t = .error (.memoryOutOfRange (BitVec.ofNat 16 (max base.toNat 0x1000)))) := by
  unfold inRange rangeFault Config.addrMax
  by_cases h : len ≠ 0 ∧ 0xFFF < base.toNat + (len - 1)
  · exact .inr ⟨h, by simp only [if_pos h]⟩
  · exact .inl ⟨by omega, by simp only [if_neg h]⟩

end Sys2Proof.Machine
end

