-- ==== Sys2Proof/Laws/State.lean ====
section
/-! SUPPORT. What each named update of the state does to each field: true by unfolding, so that no later proof unfolds a
record update. -/

namespace Sys2Proof.Machine

variable (s : State)

/-! ### setReg -/

@[simp] theorem State.setReg_mem (x : RegIx) (b : Byte) : (s.setReg x b).mem = s.mem := rfl
@[simp] theorem State.setReg_v (x : RegIx) (b : Byte) : (s.setReg x b).v = s.v.set x.toNat b x.isLt := rfl
@[simp] theorem State.setReg_i (x : RegIx) (b : Byte) : (s.setReg x b).i = s.i := rfl
@[simp] theorem State.setReg_pc (x : RegIx) (b : Byte) : (s.setReg x b).pc = s.pc := rfl
@[simp] theorem State.setReg_sp (x : RegIx) (b : Byte) : (s.setReg x b).sp = s.sp := rfl
@[simp] theorem State.setReg_stack (x : RegIx) (b : Byte) : (s.setReg x b).stack = s.stack := rfl
@[simp] theorem State.setReg_dt (x : RegIx) (b : Byte) : (s.setReg x b).dt = s.dt := rfl
@[simp] theorem State.setReg_st (x : RegIx) (b : Byte) : (s.setReg x b).st = s.st := rfl
@[simp] theorem State.setReg_fb (x : RegIx) (b : Byte) : (s.setReg x b).fb = s.fb := rfl
@[simp] theorem State.setReg_dirty (x : RegIx) (b : Byte) : (s.setReg x b).dirty = s.dirty := rfl
@[simp] theorem State.setReg_status (x : RegIx) (b : Byte) : (s.setReg x b).status = s.status := rfl
@[simp] theorem State.setReg_fcause (x : RegIx) (b : Byte) : (s.setReg x b).fcause = s.fcause := rfl
@[simp] theorem State.setReg_finfo (x : RegIx) (b : Byte) : (s.setReg x b).finfo = s.finfo := rfl
@[simp] theorem State.setReg_df (x : RegIx) (b : Byte) : (s.setReg x b).df = s.df := rfl
@[simp] theorem State.setReg_dfword (x : RegIx) (b : Byte) : (s.setReg x b).dfword = s.dfword := rfl
@[simp] theorem State.setReg_dfpc (x : RegIx) (b : Byte) : (s.setReg x b).dfpc = s.dfpc := rfl
@[simp] theorem State.setReg_inp (x : RegIx) (b : Byte) : (s.setReg x b).inp = s.inp := rfl
@[simp] theorem State.setReg_outcome (x : RegIx) (b : Byte) : (s.setReg x b).outcome = s.outcome := rfl
@[simp] theorem State.setReg_loadOutcome (x : RegIx) (b : Byte) : (s.setReg x b).loadOutcome = s.loadOutcome := rfl
@[simp] theorem State.setReg_beep (x : RegIx) (b : Byte) : (s.setReg x b).beep = s.beep := rfl
@[simp] theorem State.setReg_draws (x : RegIx) (b : Byte) : (s.setReg x b).draws = s.draws := rfl
@[simp] theorem State.setReg_loadOpen (x : RegIx) (b : Byte) : (s.setReg x b).loadOpen = s.loadOpen := rfl

/-! ### setVF -/

@[simp] theorem State.setVF_mem (b : Byte) : (s.setVF b).mem = s.mem := rfl
@[simp] theorem State.setVF_v (b : Byte) : (s.setVF b).v = s.v.set vf.toNat b vf.isLt := rfl
@[simp] theorem State.setVF_i (b : Byte) : (s.setVF b).i = s.i := rfl
@[simp] theorem State.setVF_pc (b : Byte) : (s.setVF b).pc = s.pc := rfl
@[simp] theorem State.setVF_sp (b : Byte) : (s.setVF b).sp = s.sp := rfl
@[simp] theorem State.setVF_stack (b : Byte) : (s.setVF b).stack = s.stack := rfl
@[simp] theorem State.setVF_dt (b : Byte) : (s.setVF b).dt = s.dt := rfl
@[simp] theorem State.setVF_st (b : Byte) : (s.setVF b).st = s.st := rfl
@[simp] theorem State.setVF_fb (b : Byte) : (s.setVF b).fb = s.fb := rfl
@[simp] theorem State.setVF_dirty (b : Byte) : (s.setVF b).dirty = s.dirty := rfl
@[simp] theorem State.setVF_status (b : Byte) : (s.setVF b).status = s.status := rfl
@[simp] theorem State.setVF_fcause (b : Byte) : (s.setVF b).fcause = s.fcause := rfl
@[simp] theorem State.setVF_finfo (b : Byte) : (s.setVF b).finfo = s.finfo := rfl
@[simp] theorem State.setVF_df (b : Byte) : (s.setVF b).df = s.df := rfl
@[simp] theorem State.setVF_dfword (b : Byte) : (s.setVF b).dfword = s.dfword := rfl
@[simp] theorem State.setVF_dfpc (b : Byte) : (s.setVF b).dfpc = s.dfpc := rfl
@[simp] theorem State.setVF_inp (b : Byte) : (s.setVF b).inp = s.inp := rfl
@[simp] theorem State.setVF_outcome (b : Byte) : (s.setVF b).outcome = s.outcome := rfl
@[simp] theorem State.setVF_loadOutcome (b : Byte) : (s.setVF b).loadOutcome = s.loadOutcome := rfl
@[simp] theorem State.setVF_beep (b : Byte) : (s.setVF b).beep = s.beep := rfl
@[simp] theorem State.setVF_draws (b : Byte) : (s.setVF b).draws = s.draws := rfl
@[simp] theorem State.setVF_loadOpen (b : Byte) : (s.setVF b).loadOpen = s.loadOpen := rfl

/-! ### retireTo -/

@[simp] theorem State.retireTo_mem (w : Word) : (s.retireTo w).mem = s.mem := rfl
@[simp] theorem State.retireTo_v (w : Word) : (s.retireTo w).v = s.v := rfl
@[simp] theorem State.retireTo_i (w : Word) : (s.retireTo w).i = s.i := rfl
@[simp] theorem State.retireTo_pc (w : Word) : (s.retireTo w).pc = w := rfl
@[simp] theorem State.retireTo_sp (w : Word) : (s.retireTo w).sp = s.sp := rfl
@[simp] theorem State.retireTo_stack (w : Word) : (s.retireTo w).stack = s.stack := rfl
@[simp] theorem State.retireTo_dt (w : Word) : (s.retireTo w).dt = s.dt := rfl
@[simp] theorem State.retireTo_st (w : Word) : (s.retireTo w).st = s.st := rfl
@[simp] theorem State.retireTo_fb (w : Word) : (s.retireTo w).fb = s.fb := rfl
@[simp] theorem State.retireTo_dirty (w : Word) : (s.retireTo w).dirty = s.dirty := rfl
@[simp] theorem State.retireTo_status (w : Word) : (s.retireTo w).status = s.status := rfl
@[simp] theorem State.retireTo_fcause (w : Word) : (s.retireTo w).fcause = s.fcause := rfl
@[simp] theorem State.retireTo_finfo (w : Word) : (s.retireTo w).finfo = s.finfo := rfl
@[simp] theorem State.retireTo_df (w : Word) : (s.retireTo w).df = s.df := rfl
@[simp] theorem State.retireTo_dfword (w : Word) : (s.retireTo w).dfword = s.dfword := rfl
@[simp] theorem State.retireTo_dfpc (w : Word) : (s.retireTo w).dfpc = s.dfpc := rfl
@[simp] theorem State.retireTo_inp (w : Word) : (s.retireTo w).inp = s.inp := rfl
@[simp] theorem State.retireTo_outcome (w : Word) : (s.retireTo w).outcome = .ok := rfl
@[simp] theorem State.retireTo_loadOutcome (w : Word) : (s.retireTo w).loadOutcome = s.loadOutcome := rfl
@[simp] theorem State.retireTo_beep (w : Word) : (s.retireTo w).beep = s.beep := rfl
@[simp] theorem State.retireTo_draws (w : Word) : (s.retireTo w).draws = s.draws := rfl
@[simp] theorem State.retireTo_loadOpen (w : Word) : (s.retireTo w).loadOpen = s.loadOpen := rfl

/-! ### advance -/

@[simp] theorem State.advance_mem : (s.advance).mem = s.mem := rfl
@[simp] theorem State.advance_v : (s.advance).v = s.v := rfl
@[simp] theorem State.advance_i : (s.advance).i = s.i := rfl
@[simp] theorem State.advance_pc : (s.advance).pc = s.pc + 2 := rfl
@[simp] theorem State.advance_sp : (s.advance).sp = s.sp := rfl
@[simp] theorem State.advance_stack : (s.advance).stack = s.stack := rfl
@[simp] theorem State.advance_dt : (s.advance).dt = s.dt := rfl
@[simp] theorem State.advance_st : (s.advance).st = s.st := rfl
@[simp] theorem State.advance_fb : (s.advance).fb = s.fb := rfl
@[simp] theorem State.advance_dirty : (s.advance).dirty = s.dirty := rfl
@[simp] theorem State.advance_status : (s.advance).status = s.status := rfl
@[simp] theorem State.advance_fcause : (s.advance).fcause = s.fcause := rfl
@[simp] theorem State.advance_finfo : (s.advance).finfo = s.finfo := rfl
@[simp] theorem State.advance_df : (s.advance).df = s.df := rfl
@[simp] theorem State.advance_dfword : (s.advance).dfword = s.dfword := rfl
@[simp] theorem State.advance_dfpc : (s.advance).dfpc = s.dfpc := rfl
@[simp] theorem State.advance_inp : (s.advance).inp = s.inp := rfl
@[simp] theorem State.advance_outcome : (s.advance).outcome = .ok := rfl
@[simp] theorem State.advance_loadOutcome : (s.advance).loadOutcome = s.loadOutcome := rfl
@[simp] theorem State.advance_beep : (s.advance).beep = s.beep := rfl
@[simp] theorem State.advance_draws : (s.advance).draws = s.draws := rfl
@[simp] theorem State.advance_loadOpen : (s.advance).loadOpen = s.loadOpen := rfl

/-! ### skipIf -/

@[simp] theorem State.skipIf_mem (c : Bool) : (s.skipIf c).mem = s.mem := rfl
@[simp] theorem State.skipIf_v (c : Bool) : (s.skipIf c).v = s.v := rfl
@[simp] theorem State.skipIf_i (c : Bool) : (s.skipIf c).i = s.i := rfl
@[simp] theorem State.skipIf_pc (c : Bool) : (s.skipIf c).pc = if c then s.pc + 4 else s.pc + 2 := rfl
@[simp] theorem State.skipIf_sp (c : Bool) : (s.skipIf c).sp = s.sp := rfl
@[simp] theorem State.skipIf_stack (c : Bool) : (s.skipIf c).stack = s.stack := rfl
@[simp] theorem State.skipIf_dt (c : Bool) : (s.skipIf c).dt = s.dt := rfl
@[simp] theorem State.skipIf_st (c : Bool) : (s.skipIf c).st = s.st := rfl
@[simp] theorem State.skipIf_fb (c : Bool) : (s.skipIf c).fb = s.fb := rfl
@[simp] theorem State.skipIf_dirty (c : Bool) : (s.skipIf c).dirty = s.dirty := rfl
@[simp] theorem State.skipIf_status (c : Bool) : (s.skipIf c).status = s.status := rfl
@[simp] theorem State.skipIf_fcause (c : Bool) : (s.skipIf c).fcause = s.fcause := rfl
@[simp] theorem State.skipIf_finfo (c : Bool) : (s.skipIf c).finfo = s.finfo := rfl
@[simp] theorem State.skipIf_df (c : Bool) : (s.skipIf c).df = s.df := rfl
@[simp] theorem State.skipIf_dfword (c : Bool) : (s.skipIf c).dfword = s.dfword := rfl
@[simp] theorem State.skipIf_dfpc (c : Bool) : (s.skipIf c).dfpc = s.dfpc := rfl
@[simp] theorem State.skipIf_inp (c : Bool) : (s.skipIf c).inp = s.inp := rfl
@[simp] theorem State.skipIf_outcome (c : Bool) : (s.skipIf c).outcome = .ok := rfl
@[simp] theorem State.skipIf_loadOutcome (c : Bool) : (s.skipIf c).loadOutcome = s.loadOutcome := rfl
@[simp] theorem State.skipIf_beep (c : Bool) : (s.skipIf c).beep = s.beep := rfl
@[simp] theorem State.skipIf_draws (c : Bool) : (s.skipIf c).draws = s.draws := rfl
@[simp] theorem State.skipIf_loadOpen (c : Bool) : (s.skipIf c).loadOpen = s.loadOpen := rfl

/-! ### waitForKey -/

@[simp] theorem State.waitForKey_mem : (s.waitForKey).mem = s.mem := rfl
@[simp] theorem State.waitForKey_v : (s.waitForKey).v = s.v := rfl
@[simp] theorem State.waitForKey_i : (s.waitForKey).i = s.i := rfl
@[simp] theorem State.waitForKey_pc : (s.waitForKey).pc = s.pc := rfl
@[simp] theorem State.waitForKey_sp : (s.waitForKey).sp = s.sp := rfl
@[simp] theorem State.waitForKey_stack : (s.waitForKey).stack = s.stack := rfl
@[simp] theorem State.waitForKey_dt : (s.waitForKey).dt = s.dt := rfl
@[simp] theorem State.waitForKey_st : (s.waitForKey).st = s.st := rfl
@[simp] theorem State.waitForKey_fb : (s.waitForKey).fb = s.fb := rfl
@[simp] theorem State.waitForKey_dirty : (s.waitForKey).dirty = s.dirty := rfl
@[simp] theorem State.waitForKey_status : (s.waitForKey).status = s.status := rfl
@[simp] theorem State.waitForKey_fcause : (s.waitForKey).fcause = s.fcause := rfl
@[simp] theorem State.waitForKey_finfo : (s.waitForKey).finfo = s.finfo := rfl
@[simp] theorem State.waitForKey_df : (s.waitForKey).df = s.df := rfl
@[simp] theorem State.waitForKey_dfword : (s.waitForKey).dfword = s.dfword := rfl
@[simp] theorem State.waitForKey_dfpc : (s.waitForKey).dfpc = s.dfpc := rfl
@[simp] theorem State.waitForKey_inp : (s.waitForKey).inp = s.inp := rfl
@[simp] theorem State.waitForKey_outcome : (s.waitForKey).outcome = .waitingForKey := rfl
@[simp] theorem State.waitForKey_loadOutcome : (s.waitForKey).loadOutcome = s.loadOutcome := rfl
@[simp] theorem State.waitForKey_beep : (s.waitForKey).beep = s.beep := rfl
@[simp] theorem State.waitForKey_draws : (s.waitForKey).draws = s.draws := rfl
@[simp] theorem State.waitForKey_loadOpen : (s.waitForKey).loadOpen = s.loadOpen := rfl

/-! ### takeFault -/

@[simp] theorem State.takeFault_mem (f : Fault) : (s.takeFault f).mem = s.mem := rfl
@[simp] theorem State.takeFault_v (f : Fault) : (s.takeFault f).v = s.v := rfl
@[simp] theorem State.takeFault_i (f : Fault) : (s.takeFault f).i = s.i := rfl
@[simp] theorem State.takeFault_pc (f : Fault) : (s.takeFault f).pc = s.pc := rfl
@[simp] theorem State.takeFault_sp (f : Fault) : (s.takeFault f).sp = s.sp := rfl
@[simp] theorem State.takeFault_stack (f : Fault) : (s.takeFault f).stack = s.stack := rfl
@[simp] theorem State.takeFault_dt (f : Fault) : (s.takeFault f).dt = s.dt := rfl
@[simp] theorem State.takeFault_st (f : Fault) : (s.takeFault f).st = s.st := rfl
@[simp] theorem State.takeFault_fb (f : Fault) : (s.takeFault f).fb = s.fb := rfl
@[simp] theorem State.takeFault_dirty (f : Fault) : (s.takeFault f).dirty = s.dirty := rfl
@[simp] theorem State.takeFault_status (f : Fault) : (s.takeFault f).status = .faulted := rfl
@[simp] theorem State.takeFault_fcause (f : Fault) : (s.takeFault f).fcause = faultCode f := rfl
@[simp] theorem State.takeFault_finfo (f : Fault) : (s.takeFault f).finfo = faultInfo f := rfl
@[simp] theorem State.takeFault_df (f : Fault) : (s.takeFault f).df = s.df := rfl
@[simp] theorem State.takeFault_dfword (f : Fault) : (s.takeFault f).dfword = s.dfword := rfl
@[simp] theorem State.takeFault_dfpc (f : Fault) : (s.takeFault f).dfpc = s.dfpc := rfl
@[simp] theorem State.takeFault_inp (f : Fault) : (s.takeFault f).inp = s.inp := rfl
@[simp] theorem State.takeFault_outcome (f : Fault) : (s.takeFault f).outcome = .fatal (faultCode f) (faultInfo f) := rfl
@[simp] theorem State.takeFault_loadOutcome (f : Fault) : (s.takeFault f).loadOutcome = s.loadOutcome := rfl
@[simp] theorem State.takeFault_beep (f : Fault) : (s.takeFault f).beep = s.beep := rfl
@[simp] theorem State.takeFault_draws (f : Fault) : (s.takeFault f).draws = s.draws := rfl
@[simp] theorem State.takeFault_loadOpen (f : Fault) : (s.takeFault f).loadOpen = s.loadOpen := rfl

/-! ### stayFaulted -/

@[simp] theorem State.stayFaulted_mem : (s.stayFaulted).mem = s.mem := rfl
@[simp] theorem State.stayFaulted_v : (s.stayFaulted).v = s.v := rfl
@[simp] theorem State.stayFaulted_i : (s.stayFaulted).i = s.i := rfl
@[simp] theorem State.stayFaulted_pc : (s.stayFaulted).pc = s.pc := rfl
@[simp] theorem State.stayFaulted_sp : (s.stayFaulted).sp = s.sp := rfl
@[simp] theorem State.stayFaulted_stack : (s.stayFaulted).stack = s.stack := rfl
@[simp] theorem State.stayFaulted_dt : (s.stayFaulted).dt = s.dt := rfl
@[simp] theorem State.stayFaulted_st : (s.stayFaulted).st = s.st := rfl
@[simp] theorem State.stayFaulted_fb : (s.stayFaulted).fb = s.fb := rfl
@[simp] theorem State.stayFaulted_dirty : (s.stayFaulted).dirty = s.dirty := rfl
@[simp] theorem State.stayFaulted_status : (s.stayFaulted).status = s.status := rfl
@[simp] theorem State.stayFaulted_fcause : (s.stayFaulted).fcause = s.fcause := rfl
@[simp] theorem State.stayFaulted_finfo : (s.stayFaulted).finfo = s.finfo := rfl
@[simp] theorem State.stayFaulted_df : (s.stayFaulted).df = s.df := rfl
@[simp] theorem State.stayFaulted_dfword : (s.stayFaulted).dfword = s.dfword := rfl
@[simp] theorem State.stayFaulted_dfpc : (s.stayFaulted).dfpc = s.dfpc := rfl
@[simp] theorem State.stayFaulted_inp : (s.stayFaulted).inp = s.inp := rfl
@[simp] theorem State.stayFaulted_outcome : (s.stayFaulted).outcome = .fatal s.fcause s.finfo := rfl
@[simp] theorem State.stayFaulted_loadOutcome : (s.stayFaulted).loadOutcome = s.loadOutcome := rfl
@[simp] theorem State.stayFaulted_beep : (s.stayFaulted).beep = s.beep := rfl
@[simp] theorem State.stayFaulted_draws : (s.stayFaulted).draws = s.draws := rfl
@[simp] theorem State.stayFaulted_loadOpen : (s.stayFaulted).loadOpen = s.loadOpen := rfl

/-! ### takeDecodeFault -/

@[simp] theorem State.takeDecodeFault_mem (w : Word) : (s.takeDecodeFault w).mem = s.mem := rfl
@[simp] theorem State.takeDecodeFault_v (w : Word) : (s.takeDecodeFault w).v = s.v := rfl
@[simp] theorem State.takeDecodeFault_i (w : Word) : (s.takeDecodeFault w).i = s.i := rfl
@[simp] theorem State.takeDecodeFault_pc (w : Word) : (s.takeDecodeFault w).pc = s.pc + 2 := rfl
@[simp] theorem State.takeDecodeFault_sp (w : Word) : (s.takeDecodeFault w).sp = s.sp := rfl
@[simp] theorem State.takeDecodeFault_stack (w : Word) : (s.takeDecodeFault w).stack = s.stack := rfl
@[simp] theorem State.takeDecodeFault_dt (w : Word) : (s.takeDecodeFault w).dt = s.dt := rfl
@[simp] theorem State.takeDecodeFault_st (w : Word) : (s.takeDecodeFault w).st = s.st := rfl
@[simp] theorem State.takeDecodeFault_fb (w : Word) : (s.takeDecodeFault w).fb = s.fb := rfl
@[simp] theorem State.takeDecodeFault_dirty (w : Word) : (s.takeDecodeFault w).dirty = s.dirty := rfl
@[simp] theorem State.takeDecodeFault_status (w : Word) : (s.takeDecodeFault w).status = s.status := rfl
@[simp] theorem State.takeDecodeFault_fcause (w : Word) : (s.takeDecodeFault w).fcause = s.fcause := rfl
@[simp] theorem State.takeDecodeFault_finfo (w : Word) : (s.takeDecodeFault w).finfo = s.finfo := rfl
@[simp] theorem State.takeDecodeFault_df (w : Word) : (s.takeDecodeFault w).df = true := rfl
@[simp] theorem State.takeDecodeFault_dfword (w : Word) : (s.takeDecodeFault w).dfword = w := rfl
@[simp] theorem State.takeDecodeFault_dfpc (w : Word) : (s.takeDecodeFault w).dfpc = s.pc := rfl
@[simp] theorem State.takeDecodeFault_inp (w : Word) : (s.takeDecodeFault w).inp = s.inp := rfl
@[simp] theorem State.takeDecodeFault_outcome (w : Word) : (s.takeDecodeFault w).outcome = .decodeFault s.pc w := rfl
@[simp] theorem State.takeDecodeFault_loadOutcome (w : Word) : (s.takeDecodeFault w).loadOutcome = s.loadOutcome := rfl
@[simp] theorem State.takeDecodeFault_beep (w : Word) : (s.takeDecodeFault w).beep = s.beep := rfl
@[simp] theorem State.takeDecodeFault_draws (w : Word) : (s.takeDecodeFault w).draws = s.draws := rfl
@[simp] theorem State.takeDecodeFault_loadOpen (w : Word) : (s.takeDecodeFault w).loadOpen = s.loadOpen := rfl

/-! ### endStep -/

@[simp] theorem State.endStep_mem : (s.endStep).mem = s.mem := rfl
@[simp] theorem State.endStep_v : (s.endStep).v = s.v := rfl
@[simp] theorem State.endStep_i : (s.endStep).i = s.i := rfl
@[simp] theorem State.endStep_pc : (s.endStep).pc = s.pc := rfl
@[simp] theorem State.endStep_sp : (s.endStep).sp = s.sp := rfl
@[simp] theorem State.endStep_stack : (s.endStep).stack = s.stack := rfl
@[simp] theorem State.endStep_dt : (s.endStep).dt = s.dt := rfl
@[simp] theorem State.endStep_st : (s.endStep).st = s.st := rfl
@[simp] theorem State.endStep_fb : (s.endStep).fb = s.fb := rfl
@[simp] theorem State.endStep_dirty : (s.endStep).dirty = s.dirty := rfl
@[simp] theorem State.endStep_status : (s.endStep).status = s.status := rfl
@[simp] theorem State.endStep_fcause : (s.endStep).fcause = s.fcause := rfl
@[simp] theorem State.endStep_finfo : (s.endStep).finfo = s.finfo := rfl
@[simp] theorem State.endStep_df : (s.endStep).df = s.df := rfl
@[simp] theorem State.endStep_dfword : (s.endStep).dfword = s.dfword := rfl
@[simp] theorem State.endStep_dfpc : (s.endStep).dfpc = s.dfpc := rfl
@[simp] theorem State.endStep_inp : (s.endStep).inp = { keyLevel := Config.keyLevel s.draws, keyEvent := Config.keyEvent s.draws, rand := Config.rand s.draws } := rfl
@[simp] theorem State.endStep_outcome : (s.endStep).outcome = s.outcome := rfl
@[simp] theorem State.endStep_loadOutcome : (s.endStep).loadOutcome = s.loadOutcome := rfl
@[simp] theorem State.endStep_beep : (s.endStep).beep = s.beep := rfl
@[simp] theorem State.endStep_draws : (s.endStep).draws = s.draws + 1 := rfl
@[simp] theorem State.endStep_loadOpen : (s.endStep).loadOpen = false := rfl

/-! ### present -/

@[simp] theorem present_mem (inp : Inputs) : (present inp s).mem = s.mem := rfl
@[simp] theorem present_v (inp : Inputs) : (present inp s).v = s.v := rfl
@[simp] theorem present_i (inp : Inputs) : (present inp s).i = s.i := rfl
@[simp] theorem present_pc (inp : Inputs) : (present inp s).pc = s.pc := rfl
@[simp] theorem present_sp (inp : Inputs) : (present inp s).sp = s.sp := rfl
@[simp] theorem present_stack (inp : Inputs) : (present inp s).stack = s.stack := rfl
@[simp] theorem present_dt (inp : Inputs) : (present inp s).dt = s.dt := rfl
@[simp] theorem present_st (inp : Inputs) : (present inp s).st = s.st := rfl
@[simp] theorem present_fb (inp : Inputs) : (present inp s).fb = s.fb := rfl
@[simp] theorem present_dirty (inp : Inputs) : (present inp s).dirty = s.dirty := rfl
@[simp] theorem present_status (inp : Inputs) : (present inp s).status = s.status := rfl
@[simp] theorem present_fcause (inp : Inputs) : (present inp s).fcause = s.fcause := rfl
@[simp] theorem present_finfo (inp : Inputs) : (present inp s).finfo = s.finfo := rfl
@[simp] theorem present_df (inp : Inputs) : (present inp s).df = s.df := rfl
@[simp] theorem present_dfword (inp : Inputs) : (present inp s).dfword = s.dfword := rfl
@[simp] theorem present_dfpc (inp : Inputs) : (present inp s).dfpc = s.dfpc := rfl
@[simp] theorem present_inp (inp : Inputs) : (present inp s).inp = inp := rfl
@[simp] theorem present_outcome (inp : Inputs) : (present inp s).outcome = s.outcome := rfl
@[simp] theorem present_loadOutcome (inp : Inputs) : (present inp s).loadOutcome = s.loadOutcome := rfl
@[simp] theorem present_beep (inp : Inputs) : (present inp s).beep = s.beep := rfl
@[simp] theorem present_draws (inp : Inputs) : (present inp s).draws = s.draws := rfl
@[simp] theorem present_loadOpen (inp : Inputs) : (present inp s).loadOpen = s.loadOpen := rfl

/-! ### tick -/

@[simp] theorem tick_mem : (tick s).mem = s.mem := rfl
@[simp] theorem tick_v : (tick s).v = s.v := rfl
@[simp] theorem tick_i : (tick s).i = s.i := rfl
@[simp] theorem tick_pc : (tick s).pc = s.pc := rfl
@[simp] theorem tick_sp : (tick s).sp = s.sp := rfl
@[simp] theorem tick_stack : (tick s).stack = s.stack := rfl
@[simp] theorem tick_dt : (tick s).dt = countDown s.dt := rfl
@[simp] theorem tick_st : (tick s).st = countDown s.st := rfl
@[simp] theorem tick_fb : (tick s).fb = s.fb := rfl
@[simp] theorem tick_dirty : (tick s).dirty = s.dirty := rfl
@[simp] theorem tick_status : (tick s).status = s.status := rfl
@[simp] theorem tick_fcause : (tick s).fcause = s.fcause := rfl
@[simp] theorem tick_finfo : (tick s).finfo = s.finfo := rfl
@[simp] theorem tick_df : (tick s).df = s.df := rfl
@[simp] theorem tick_dfword : (tick s).dfword = s.dfword := rfl
@[simp] theorem tick_dfpc : (tick s).dfpc = s.dfpc := rfl
@[simp] theorem tick_inp : (tick s).inp = s.inp := rfl
@[simp] theorem tick_outcome : (tick s).outcome = s.outcome := rfl
@[simp] theorem tick_loadOutcome : (tick s).loadOutcome = s.loadOutcome := rfl
@[simp] theorem tick_beep : (tick s).beep = decide (0 < s.st.toNat) := rfl
@[simp] theorem tick_draws : (tick s).draws = s.draws := rfl
@[simp] theorem tick_loadOpen : (tick s).loadOpen = s.loadOpen := rfl

/-! ### placeWord -/

@[simp] theorem placeWord_mem (w : Word) : (placeWord s w).mem = s.mem.store s.pc.toNat [highByte w, lowByte w] := rfl
@[simp] theorem placeWord_v (w : Word) : (placeWord s w).v = s.v := rfl
@[simp] theorem placeWord_i (w : Word) : (placeWord s w).i = s.i := rfl
@[simp] theorem placeWord_pc (w : Word) : (placeWord s w).pc = s.pc := rfl
@[simp] theorem placeWord_sp (w : Word) : (placeWord s w).sp = s.sp := rfl
@[simp] theorem placeWord_stack (w : Word) : (placeWord s w).stack = s.stack := rfl
@[simp] theorem placeWord_dt (w : Word) : (placeWord s w).dt = s.dt := rfl
@[simp] theorem placeWord_st (w : Word) : (placeWord s w).st = s.st := rfl
@[simp] theorem placeWord_fb (w : Word) : (placeWord s w).fb = s.fb := rfl
@[simp] theorem placeWord_dirty (w : Word) : (placeWord s w).dirty = s.dirty := rfl
@[simp] theorem placeWord_status (w : Word) : (placeWord s w).status = s.status := rfl
@[simp] theorem placeWord_fcause (w : Word) : (placeWord s w).fcause = s.fcause := rfl
@[simp] theorem placeWord_finfo (w : Word) : (placeWord s w).finfo = s.finfo := rfl
@[simp] theorem placeWord_df (w : Word) : (placeWord s w).df = s.df := rfl
@[simp] theorem placeWord_dfword (w : Word) : (placeWord s w).dfword = s.dfword := rfl
@[simp] theorem placeWord_dfpc (w : Word) : (placeWord s w).dfpc = s.dfpc := rfl
@[simp] theorem placeWord_inp (w : Word) : (placeWord s w).inp = s.inp := rfl
@[simp] theorem placeWord_outcome (w : Word) : (placeWord s w).outcome = s.outcome := rfl
@[simp] theorem placeWord_loadOutcome (w : Word) : (placeWord s w).loadOutcome = s.loadOutcome := rfl
@[simp] theorem placeWord_beep (w : Word) : (placeWord s w).beep = s.beep := rfl
@[simp] theorem placeWord_draws (w : Word) : (placeWord s w).draws = s.draws := rfl
@[simp] theorem placeWord_loadOpen (w : Word) : (placeWord s w).loadOpen = s.loadOpen := rfl

end Sys2Proof.Machine
end

