-- ==== Sys2Proof/Laws/Ops.lean ====
section
/-! SUPPORT. The laws of registers, the call stack, the framebuffer and the ends of an instruction. -/

namespace Sys2Proof.Machine

/-! ### Registers -/

/-- A register depends on V alone. -/
theorem State.reg_congr {s t : State} (h : t.v = s.v) (r : RegIx) : t.reg r = s.reg r := by
  simp only [State.reg, h]

@[simp] theorem State.reg_setReg_same (s : State) (x : RegIx) (b : Byte) : (s.setReg x b).reg x = b := by
  simp [State.reg]

theorem State.reg_setReg_other (s : State) {x r : RegIx} (b : Byte) (h : r ≠ x) : (s.setReg x b).reg r = s.reg r := by
  have : x.toNat ≠ r.toNat := fun e => h (BitVec.eq_of_toNat_eq e.symm)
  simp [State.reg, this]

/-- Reading a register after a write. -/
theorem State.reg_setReg (s : State) (x r : RegIx) (b : Byte) :
    (s.setReg x b).reg r = if r = x then b else s.reg r := by
  split
  · subst r; exact State.reg_setReg_same s x b
  · exact State.reg_setReg_other s b (by assumption)

/-- Reading a register after VF is written. -/
theorem State.reg_setVF (s : State) (r : RegIx) (b : Byte) :
    (s.setVF b).reg r = if r = 15 then b else s.reg r := State.reg_setReg s vf r b

@[simp] theorem State.reg_retireTo (s : State) (w : Word) (r : RegIx) : (s.retireTo w).reg r = s.reg r := rfl
@[simp] theorem State.reg_advance (s : State) (r : RegIx) : s.advance.reg r = s.reg r := rfl
@[simp] theorem State.reg_skipIf (s : State) (c : Bool) (r : RegIx) : (s.skipIf c).reg r = s.reg r := rfl
@[simp] theorem State.reg_waitForKey (s : State) (r : RegIx) : s.waitForKey.reg r = s.reg r := rfl
@[simp] theorem State.reg_takeFault (s : State) (f : Fault) (r : RegIx) : (s.takeFault f).reg r = s.reg r := rfl
@[simp] theorem State.reg_stayFaulted (s : State) (r : RegIx) : s.stayFaulted.reg r = s.reg r := rfl
@[simp] theorem State.reg_takeDecodeFault (s : State) (w : Word) (r : RegIx) :
    (s.takeDecodeFault w).reg r = s.reg r := rfl
@[simp] theorem State.reg_endStep (s : State) (r : RegIx) : s.endStep.reg r = s.reg r := rfl
@[simp] theorem reg_present (inp : Inputs) (s : State) (r : RegIx) : (present inp s).reg r = s.reg r := rfl
@[simp] theorem reg_tick (s : State) (r : RegIx) : (tick s).reg r = s.reg r := rfl

/-- The list Fx55 stores has x + 1 bytes. -/
@[simp] theorem State.regsUpTo_length (s : State) (x : RegIx) : (s.regsUpTo x).length = x.toNat + 1 := by
  have := x.isLt
  simp [State.regsUpTo]; omega

/-- Its byte k is V[k]. -/
theorem State.regsUpTo_getElem (s : State) (x r : RegIx) (h : r.toNat < (s.regsUpTo x).length) :
    (s.regsUpTo x)[r.toNat] = s.reg r := by
  simp [State.regsUpTo, State.reg]

/-- Reading a register array after bytes were written to it from register k on. -/
theorem setRegsFrom_getElem (bs : List Byte) (v : Vector Byte 16) (k : Nat) {r : Nat} (hr : r < 16) :
    (setRegsFrom v k bs)[r] = if h : k ≤ r ∧ r < k + bs.length then bs[r - k] else v[r] := by
  induction bs generalizing v k with
  | nil => rw [dif_neg (by simp)]; rfl
  | cons b bs ih =>
    simp only [setRegsFrom, ih, List.length_cons]
    by_cases h1 : k + 1 ≤ r ∧ r < k + 1 + bs.length
    · rw [dif_pos h1, dif_pos (by omega)]
      rw [List.getElem_cons, dif_neg (by omega)]
      congr 1
    · rw [dif_neg h1]
      by_cases h2 : r = k
      · subst h2
        rw [dif_pos (by omega)]
        simp
      · rw [dif_neg (by omega), Vector.getElem_setIfInBounds, if_neg (by omega)]

/-! ### The call stack -/

/-- Push: room, the entry STACK[SP] and SP + 1; or the overflow fault (10_state.md R28). -/
theorem push_cases (s : State) (w : Word) :
    (∃ (h : s.sp.val < 16) (t : State), push s w = .ok t
        ∧ t = { s with stack := s.stack.set s.sp.val w h, sp := ⟨s.sp.val + 1, Nat.succ_lt_succ h⟩ })
    ∨ (s.sp.val = 16 ∧ push s w = .error (.stackOverflow s.pc)) := by
  unfold push Config.stackDepth
  split
  · rename_i h; exact .inl ⟨h, _, rfl, rfl⟩
  · have := s.sp.isLt
    exact .inr ⟨by omega, rfl⟩

/-- Pop: the entry STACK[SP - 1] and SP - 1; or the underflow fault (10_state.md R29). -/
theorem pop_cases (s : State) :
    (∃ (h : 0 < s.sp.val) (t : State),
        pop s = .ok (s.stack[s.sp.val - 1]'(by have := s.sp.isLt; omega), t)
        ∧ t = { s with sp := ⟨s.sp.val - 1, by have := s.sp.isLt; omega⟩ })
    ∨ (s.sp.val = 0 ∧ pop s = .error (.stackUnderflow s.pc)) := by
  unfold pop
  split
  · rename_i h; exact .inl ⟨h, _, rfl, rfl⟩
  · exact .inr ⟨by omega, rfl⟩

/-! ### The end of an execute phase -/

@[simp] theorem settle_ok (s t : State) : settle s (.ok t) = .next t := rfl
@[simp] theorem settle_error (s : State) (f : Fault) : settle s (.error f) = .next (s.takeFault f) := rfl

/-- An execute phase that can fault always answers a next state: its result, or the fault taken. -/
theorem settle_cases {s t : State} {r : Except Fault State} (h : settle s r = .next t) :
    r = .ok t ∨ ∃ f, r = .error f ∧ t = s.takeFault f := by
  cases r with
  | ok u => exact .inl (by simpa using h)
  | error f => exact .inr ⟨f, rfl, by simpa using h.symm⟩

/-- The cause codes are 1, 2 and 3 (60_exceptions.md R201). -/
theorem faultCode_range (f : Fault) : faultCode f = 1 ∨ faultCode f = 2 ∨ faultCode f = 3 := by
  cases f <;> simp [faultCode]

/-! ### The framebuffer -/

@[simp] theorem pixel_setPixel_same (fb : Framebuffer) (y : Fin 32) (x : Fin 64) (b : Bool) :
    pixel (setPixel fb y x b) y x = b := by
  simp [pixel, setPixel]

theorem pixel_setPixel_other (fb : Framebuffer) {y y' : Fin 32} {x x' : Fin 64} (b : Bool) (h : ¬(y' = y ∧ x' = x)) :
    pixel (setPixel fb y x b) y' x' = pixel fb y' x' := by
  simp only [pixel, setPixel, Fin.getElem_fin]
  by_cases hy : y = y'
  · subst hy
    have hx : x.val ≠ x'.val := fun e => h ⟨rfl, Fin.ext e.symm⟩
    simp [hx]
  · have : y.val ≠ y'.val := fun e => hy (Fin.ext e)
    simp [this]

/-- Reading a pixel after a write. -/
theorem pixel_setPixel (fb : Framebuffer) (y y' : Fin 32) (x x' : Fin 64) (b : Bool) :
    pixel (setPixel fb y x b) y' x' = if y' = y ∧ x' = x then b else pixel fb y' x' := by
  split
  · rename_i h; obtain ⟨rfl, rfl⟩ := h; exact pixel_setPixel_same fb _ _ b
  · exact pixel_setPixel_other fb b (by assumption)

@[simp] theorem pixel_clearFb (y : Fin 32) (x : Fin 64) : pixel clearFb y x = false := by
  simp [pixel, clearFb]

/-- Two framebuffers with the same pixels are the same. -/
theorem framebuffer_ext {f g : Framebuffer} (h : ∀ y x, pixel f y x = pixel g y x) : f = g := by
  apply Vector.ext
  intro i hi
  apply Vector.ext
  intro j hj
  exact h ⟨i, hi⟩ ⟨j, hj⟩

/-- Drawing one bit: the pixel it falls on is XORed with it, every other is left alone. -/
theorem pixel_drawBit (acc : Framebuffer × Bool) (p : SpriteBit) (y : Fin 32) (x : Fin 64) :
    pixel (drawBit acc p).1 y x = (pixel acc.1 y x ^^ (decide (p.y = y ∧ p.x = x) && p.bit)) := by
  simp only [drawBit, pixel_setPixel]
  by_cases h : y = p.y ∧ x = p.x
  · obtain ⟨rfl, rfl⟩ := h; simp
  · have h' : ¬(p.y = y ∧ p.x = x) := fun e => h ⟨e.1.symm, e.2.symm⟩
    rw [if_neg h, decide_eq_false h']; simp

end Sys2Proof.Machine
end

