-- ==== Sys2Proof/Laws/Exec.lean ====
section
/-! SUPPORT. What the execute phase of an instruction that can fault can answer, and the shared shapes of the meanings: cited
instead of unfolding `settle`, `push`, `pop` and `inRange` again. -/

namespace Sys2Proof.Machine

/-- A data access: its result when the whole range exists, else the fault with max(base, 0x1000) taken. -/
theorem settle_inRange_cases (s u : State) (base : Word) (len : Nat) :
    ((len = 0 ∨ base.toNat + (len - 1) ≤ 0xFFF) ∧ settle s (inRange base len u) = .next u)
    ∨ ((len ≠ 0 ∧ 0xFFF < base.toNat + (len - 1))
        ∧ settle s (inRange base len u)
          = .next (s.takeFault (.memoryOutOfRange (BitVec.ofNat 16 (max base.toNat 0x1000))))) := by
  rcases inRange_spec base len u with ⟨h, e⟩ | ⟨h, e⟩
  · exact .inl ⟨h, by rw [e]; rfl⟩
  · exact .inr ⟨h, by rw [e]; rfl⟩

/-- The address the fault reports, as a number: max(base, 0x1000) fits 16 bits. -/
theorem toNat_faultAddress (base : Word) : (BitVec.ofNat 16 (max base.toNat 0x1000)).toNat = max base.toNat 0x1000 := by
  have := base.isLt
  rw [BitVec.toNat_ofNat, Nat.mod_eq_of_lt (by omega)]

/-- 00EE: the popped entry goes to PC, or the underflow fault is taken. -/
theorem execRet_cases (s : State) :
    (∃ (h : 0 < s.sp.val) (t : State),
        execRet s = .next t
        ∧ t = ({ s with sp := ⟨s.sp.val - 1, by have := s.sp.isLt; omega⟩ } : State).retireTo
            (s.stack[s.sp.val - 1]'(by have := s.sp.isLt; omega)))
    ∨ (s.sp.val = 0 ∧ execRet s = .next (s.takeFault (.stackUnderflow s.pc))) := by
  rcases pop_cases s with ⟨h, t, e, rfl⟩ | ⟨h, e⟩
  · exact .inl ⟨h, _, by rw [execRet, e]; rfl, rfl⟩
  · exact .inr ⟨h, by rw [execRet, e]; rfl⟩

/-- 2nnn: PC + 2 is pushed and PC becomes nnn, or the overflow fault is taken. -/
theorem execCall_cases (nnn : Addr) (s : State) :
    (∃ (h : s.sp.val < 16) (t : State),
        execCall nnn s = .next t
        ∧ t = ({ s with
            stack := s.stack.set s.sp.val (s.pc + 2) h, sp := ⟨s.sp.val + 1, Nat.succ_lt_succ h⟩ } : State).retireTo
            (zextAddr nnn))
    ∨ (s.sp.val = 16 ∧ execCall nnn s = .next (s.takeFault (.stackOverflow s.pc))) := by
  rcases push_cases s (s.pc + 2) with ⟨h, t, e, rfl⟩ | ⟨h, e⟩
  · exact .inl ⟨h, _, by rw [execCall, e]; rfl, rfl⟩
  · exact .inr ⟨h, by rw [execCall, e]; rfl⟩

/-- Reading a register after a flag was written to VF and then a result, computed from what that left, to Vx. -/
theorem flagThen_reg (s : State) (flag : Byte) (x : RegIx) (result : State → Byte) (r : RegIx) :
    (flagThen s flag x result).reg r
      = if r = x then result (s.setVF flag) else if r = 15 then flag else s.reg r := by
  simp only [flagThen, State.reg_advance, State.reg_setReg, State.reg_setVF]

/-- It writes nothing but registers, PC and the outcome. -/
theorem flagThen_eq (s : State) (flag : Byte) (x : RegIx) (result : State → Byte) :
    flagThen s flag x result = ({ s with v := (flagThen s flag x result).v } : State).advance := rfl

/-- Reading a register after Fx65 loaded x + 1 bytes. -/
theorem reg_setRegsFrom_zero (s : State) (bs : List Byte) (r : RegIx) :
    ({ s with v := setRegsFrom s.v 0 bs } : State).reg r = if h : r.toNat < bs.length then bs[r.toNat] else s.reg r := by
  simp only [State.reg]
  rw [setRegsFrom_getElem bs s.v 0 r.isLt]
  by_cases h : r.toNat < bs.length
  · rw [dif_pos h, dif_pos (by omega)]; rfl
  · rw [dif_neg h, dif_neg (by omega)]

/-- The value of a flag byte. -/
theorem flagByte_toNat (b : Bool) : (flagByte b).toNat = if b then 1 else 0 := by cases b <;> rfl

/-- The exact sum modulo 256. -/
theorem add8_toNat (a b : Byte) : (add8 a b).toNat = (a.toNat + b.toNat) % 256 := by simp [add8]

/-- The difference modulo 256. -/
theorem sub8_toNat (a b : Byte) : (sub8 a b).toNat = (a.toNat + 256 - b.toNat) % 256 := by
  have := a.isLt
  have := b.isLt
  unfold sub8
  split <;> (simp; try omega)

/-- A right shift by one halves. -/
theorem shiftRight1_toNat (a : Byte) : (shiftRight1 a).toNat = a.toNat / 2 := by
  simp [shiftRight1, Nat.shiftRight_eq_div_pow]

/-- A left shift by one doubles, modulo 256. -/
theorem shiftLeft1_toNat (a : Byte) : (shiftLeft1 a).toNat = a.toNat * 2 % 256 := by
  simp [shiftLeft1, Nat.shiftLeft_eq]

/-- Bit 0. -/
theorem bitOutRight_toNat (a : Byte) : (bitOutRight a).toNat = a.toNat % 2 := by
  revert a; decide

/-- Bit 7. -/
theorem bitOutLeft_toNat (a : Byte) : (bitOutLeft a).toNat = a.toNat / 128 := by
  revert a; decide

/-- Everything a Step can do: return the recorded fault, fault at the fetch, report an unrecognized word, or execute the
instruction it decodes (30_encoding.md R74, 60_exceptions.md R206). -/
theorem step_cases {s t : State} (h : step s = .next t) :
    (s.status = .faulted ∧ t = s.stayFaulted.endStep)
    ∨ (s.status = .running ∧ ∃ f, fetch s = .error f ∧ t = (s.takeFault f).endStep)
    ∨ (s.status = .running ∧ ∃ w e, fetch s = .ok w ∧ decodeWord w = .error e ∧ t = (s.takeDecodeFault w).endStep)
    ∨ (s.status = .running ∧ ∃ w i u, fetch s = .ok w ∧ decodeWord w = .ok i ∧ exec i s = .next u ∧ t = u.endStep) := by
  unfold step cycle at h
  split at h
  · rename_i hs; cases h; exact .inl ⟨hs, rfl⟩
  · rename_i hs
    split at h
    · rename_i f hf; cases h; exact .inr (.inl ⟨hs, f, hf, rfl⟩)
    · rename_i w hf
      unfold decodeAndExec at h
      split at h
      · rename_i i hi
        unfold finish at h
        split at h
        · rename_i u hu; cases h; exact .inr (.inr (.inr ⟨hs, w, i, u, hf, hi, hu, rfl⟩))
        · cases h
        · cases h
      · rename_i e he; cases h; exact .inr (.inr (.inl ⟨hs, w, e, hf, he, rfl⟩))

end Sys2Proof.Machine
end

