-- ==== Sys2Proof/Laws/PerInstr.lean ====
section
/-! SUPPORT. One lemma per instruction: its word selects its own row of the opcode table (30_encoding.md R75, R76). -/

namespace Sys2Proof.Laws.EncodingMatchesRow

/-- The word of the instruction masked with its row's mask is its row's match value, and the row is in the table. -/
def Statement (i : Instr) : Prop := encode i &&& rowMask i = rowMatch i ∧ (rowMask i, rowMatch i) ∈ opcodeRows

theorem cls : Statement (.cls) :=
  ⟨by decide, by simp [opcodeRows, rowMask, rowMatch]⟩

theorem ret : Statement (.ret) :=
  ⟨by decide, by simp [opcodeRows, rowMask, rowMatch]⟩

theorem jp (nnn : Addr) : Statement (.jp nnn) :=
  ⟨(packNNN_mask _ _).trans rfl, by simp [opcodeRows, rowMask, rowMatch]⟩

theorem call (nnn : Addr) : Statement (.call nnn) :=
  ⟨(packNNN_mask _ _).trans rfl, by simp [opcodeRows, rowMask, rowMatch]⟩

theorem seImm (x : RegIx) (kk : Byte) : Statement (.seImm x kk) :=
  ⟨(packXKK_mask_class _ _ _).trans rfl, by simp [opcodeRows, rowMask, rowMatch]⟩

theorem sneImm (x : RegIx) (kk : Byte) : Statement (.sneImm x kk) :=
  ⟨(packXKK_mask_class _ _ _).trans rfl, by simp [opcodeRows, rowMask, rowMatch]⟩

theorem seReg (x : RegIx) (y : RegIx) : Statement (.seReg x y) :=
  ⟨(packXYN_mask_n _ _ _ _).trans rfl, by simp [opcodeRows, rowMask, rowMatch]⟩

theorem ldImm (x : RegIx) (kk : Byte) : Statement (.ldImm x kk) :=
  ⟨(packXKK_mask_class _ _ _).trans rfl, by simp [opcodeRows, rowMask, rowMatch]⟩

theorem addImm (x : RegIx) (kk : Byte) : Statement (.addImm x kk) :=
  ⟨(packXKK_mask_class _ _ _).trans rfl, by simp [opcodeRows, rowMask, rowMatch]⟩

theorem ldReg (x : RegIx) (y : RegIx) : Statement (.ldReg x y) :=
  ⟨(packXYN_mask_n _ _ _ _).trans rfl, by simp [opcodeRows, rowMask, rowMatch]⟩

theorem orReg (x : RegIx) (y : RegIx) : Statement (.orReg x y) :=
  ⟨(packXYN_mask_n _ _ _ _).trans rfl, by simp [opcodeRows, rowMask, rowMatch]⟩

theorem andReg (x : RegIx) (y : RegIx) : Statement (.andReg x y) :=
  ⟨(packXYN_mask_n _ _ _ _).trans rfl, by simp [opcodeRows, rowMask, rowMatch]⟩

theorem xorReg (x : RegIx) (y : RegIx) : Statement (.xorReg x y) :=
  ⟨(packXYN_mask_n _ _ _ _).trans rfl, by simp [opcodeRows, rowMask, rowMatch]⟩

theorem addReg (x : RegIx) (y : RegIx) : Statement (.addReg x y) :=
  ⟨(packXYN_mask_n _ _ _ _).trans rfl, by simp [opcodeRows, rowMask, rowMatch]⟩

theorem sub (x : RegIx) (y : RegIx) : Statement (.sub x y) :=
  ⟨(packXYN_mask_n _ _ _ _).trans rfl, by simp [opcodeRows, rowMask, rowMatch]⟩

theorem shr (x : RegIx) (y : RegIx) : Statement (.shr x y) :=
  ⟨(packXYN_mask_n _ _ _ _).trans rfl, by simp [opcodeRows, rowMask, rowMatch]⟩

theorem subn (x : RegIx) (y : RegIx) : Statement (.subn x y) :=
  ⟨(packXYN_mask_n _ _ _ _).trans rfl, by simp [opcodeRows, rowMask, rowMatch]⟩

theorem shl (x : RegIx) (y : RegIx) : Statement (.shl x y) :=
  ⟨(packXYN_mask_n _ _ _ _).trans rfl, by simp [opcodeRows, rowMask, rowMatch]⟩

theorem sneReg (x : RegIx) (y : RegIx) : Statement (.sneReg x y) :=
  ⟨(packXYN_mask_n _ _ _ _).trans rfl, by simp [opcodeRows, rowMask, rowMatch]⟩

theorem ldI (nnn : Addr) : Statement (.ldI nnn) :=
  ⟨(packNNN_mask _ _).trans rfl, by simp [opcodeRows, rowMask, rowMatch]⟩

theorem jpV0 (nnn : Addr) : Statement (.jpV0 nnn) :=
  ⟨(packNNN_mask _ _).trans rfl, by simp [opcodeRows, rowMask, rowMatch]⟩

theorem rnd (x : RegIx) (kk : Byte) : Statement (.rnd x kk) :=
  ⟨(packXKK_mask_class _ _ _).trans rfl, by simp [opcodeRows, rowMask, rowMatch]⟩

theorem drw (x : RegIx) (y : RegIx) (n : BitVec 4) : Statement (.drw x y n) :=
  ⟨(packXYN_mask_class _ _ _ _).trans rfl, by simp [opcodeRows, rowMask, rowMatch]⟩

theorem skp (x : RegIx) : Statement (.skp x) :=
  ⟨(packXKK_mask_kk _ _ _).trans rfl, by simp [opcodeRows, rowMask, rowMatch]⟩

theorem sknp (x : RegIx) : Statement (.sknp x) :=
  ⟨(packXKK_mask_kk _ _ _).trans rfl, by simp [opcodeRows, rowMask, rowMatch]⟩

theorem ldVxDt (x : RegIx) : Statement (.ldVxDt x) :=
  ⟨(packXKK_mask_kk _ _ _).trans rfl, by simp [opcodeRows, rowMask, rowMatch]⟩

theorem ldVxK (x : RegIx) : Statement (.ldVxK x) :=
  ⟨(packXKK_mask_kk _ _ _).trans rfl, by simp [opcodeRows, rowMask, rowMatch]⟩

theorem ldDtVx (x : RegIx) : Statement (.ldDtVx x) :=
  ⟨(packXKK_mask_kk _ _ _).trans rfl, by simp [opcodeRows, rowMask, rowMatch]⟩

theorem ldStVx (x : RegIx) : Statement (.ldStVx x) :=
  ⟨(packXKK_mask_kk _ _ _).trans rfl, by simp [opcodeRows, rowMask, rowMatch]⟩

theorem addI (x : RegIx) : Statement (.addI x) :=
  ⟨(packXKK_mask_kk _ _ _).trans rfl, by simp [opcodeRows, rowMask, rowMatch]⟩

theorem ldF (x : RegIx) : Statement (.ldF x) :=
  ⟨(packXKK_mask_kk _ _ _).trans rfl, by simp [opcodeRows, rowMask, rowMatch]⟩

theorem ldB (x : RegIx) : Statement (.ldB x) :=
  ⟨(packXKK_mask_kk _ _ _).trans rfl, by simp [opcodeRows, rowMask, rowMatch]⟩

theorem ldMemVx (x : RegIx) : Statement (.ldMemVx x) :=
  ⟨(packXKK_mask_kk _ _ _).trans rfl, by simp [opcodeRows, rowMask, rowMatch]⟩

theorem ldVxMem (x : RegIx) : Statement (.ldVxMem x) :=
  ⟨(packXKK_mask_kk _ _ _).trans rfl, by simp [opcodeRows, rowMask, rowMatch]⟩

end Sys2Proof.Laws.EncodingMatchesRow
end

