-- ==== Sys2Proof/Tests/Slice0.lean ====
section
/-! SUPPORT. Tests: ill-formed ROMs, one word per constructor written from the encodings of spec/, small single-step tests
whose expected results are the vectors T<n> of 95_test_vectors.md, and the witnesses of the statements' hypotheses. -/

namespace Sys2Proof.Tests

open Sys2Proof Sys2Proof.Machine

set_option Elab.async false

/-! ### Well-formedness (70_reset_and_hazards.md R243; vectors T170 to T173) -/

theorem test_romNonempty_refuses_empty : romNonempty [] = false ∧ romWf [] = false := by decide
theorem test_romFits_refuses_3585 : romFits (List.replicate 3585 0) = false ∧ romWf (List.replicate 3585 0) = false := by
  decide +kernel
theorem test_romWf_accepts_1_and_3584 : romWf [0x61] = true ∧ romWf (List.replicate 3584 0) = true := by
  decide +kernel

/-! ### Decoding: words written out from the encodings (30_encoding.md R72, R76) -/

theorem test_decode_cls : decodeWord 0x00E0 = .ok .cls := by decide
theorem test_decode_ret : decodeWord 0x00EE = .ok .ret := by decide
theorem test_decode_jp : decodeWord 0x1ABC = .ok (.jp 0xABC) := by decide
theorem test_decode_call : decodeWord 0x2ABC = .ok (.call 0xABC) := by decide
theorem test_decode_seImm : decodeWord 0x3142 = .ok (.seImm 0x1 0x42) := by decide
theorem test_decode_sneImm : decodeWord 0x4E42 = .ok (.sneImm 0xE 0x42) := by decide
theorem test_decode_seReg : decodeWord 0x5120 = .ok (.seReg 0x1 0x2) := by decide
theorem test_decode_ldImm : decodeWord 0x6A03 = .ok (.ldImm 0xA 0x03) := by decide
theorem test_decode_addImm : decodeWord 0x71FF = .ok (.addImm 0x1 0xFF) := by decide
theorem test_decode_ldReg : decodeWord 0x8120 = .ok (.ldReg 0x1 0x2) := by decide
theorem test_decode_orReg : decodeWord 0x8121 = .ok (.orReg 0x1 0x2) := by decide
theorem test_decode_andReg : decodeWord 0x8122 = .ok (.andReg 0x1 0x2) := by decide
theorem test_decode_xorReg : decodeWord 0x8123 = .ok (.xorReg 0x1 0x2) := by decide
theorem test_decode_addReg : decodeWord 0x8AB4 = .ok (.addReg 0xA 0xB) := by decide
theorem test_decode_sub : decodeWord 0x8F15 = .ok (.sub 0xF 0x1) := by decide
theorem test_decode_shr : decodeWord 0x8126 = .ok (.shr 0x1 0x2) := by decide
theorem test_decode_subn : decodeWord 0x81F7 = .ok (.subn 0x1 0xF) := by decide
theorem test_decode_shl : decodeWord 0x812E = .ok (.shl 0x1 0x2) := by decide
theorem test_decode_sneReg : decodeWord 0x9120 = .ok (.sneReg 0x1 0x2) := by decide
theorem test_decode_ldI : decodeWord 0xA123 = .ok (.ldI 0x123) := by decide
theorem test_decode_jpV0 : decodeWord 0xB2F0 = .ok (.jpV0 0x2F0) := by decide
theorem test_decode_rnd : decodeWord 0xC30F = .ok (.rnd 0x3 0x0F) := by decide
theorem test_decode_drw : decodeWord 0xD01F = .ok (.drw 0x0 0x1 0xF) := by decide
theorem test_decode_skp : decodeWord 0xE59E = .ok (.skp 0x5) := by decide
theorem test_decode_sknp : decodeWord 0xE5A1 = .ok (.sknp 0x5) := by decide
theorem test_decode_ldVxDt : decodeWord 0xFB07 = .ok (.ldVxDt 0xB) := by decide
theorem test_decode_ldVxK : decodeWord 0xF50A = .ok (.ldVxK 0x5) := by decide
theorem test_decode_ldDtVx : decodeWord 0xFA15 = .ok (.ldDtVx 0xA) := by decide
theorem test_decode_ldStVx : decodeWord 0xF118 = .ok (.ldStVx 0x1) := by decide
theorem test_decode_addI : decodeWord 0xF21E = .ok (.addI 0x2) := by decide
theorem test_decode_ldF : decodeWord 0xF429 = .ok (.ldF 0x4) := by decide
theorem test_decode_ldB : decodeWord 0xF033 = .ok (.ldB 0x0) := by decide
theorem test_decode_ldMemVx : decodeWord 0xF255 = .ok (.ldMemVx 0x2) := by decide
theorem test_decode_ldVxMem : decodeWord 0xFF65 = .ok (.ldVxMem 0xF) := by decide

/-- Vectors T10 to T22: the unrecognized words. -/
theorem test_decode_unrecognized :
    decodeWord 0x0000 = .error (.unrecognized 0x0000)
    ∧ decodeWord 0x00E1 = .error (.unrecognized 0x00E1)
    ∧ decodeWord 0x01E0 = .error (.unrecognized 0x01E0)
    ∧ decodeWord 0x0123 = .error (.unrecognized 0x0123)
    ∧ decodeWord 0x5121 = .error (.unrecognized 0x5121)
    ∧ decodeWord 0x9123 = .error (.unrecognized 0x9123)
    ∧ decodeWord 0x8128 = .error (.unrecognized 0x8128)
    ∧ decodeWord 0x812F = .error (.unrecognized 0x812F)
    ∧ decodeWord 0xE19D = .error (.unrecognized 0xE19D)
    ∧ decodeWord 0xE000 = .error (.unrecognized 0xE000)
    ∧ decodeWord 0xF100 = .error (.unrecognized 0xF100)
    ∧ decodeWord 0xF175 = .error (.unrecognized 0xF175)
    ∧ decodeWord 0xF1FF = .error (.unrecognized 0xF1FF) := by
  refine ⟨?_, ?_, ?_, ?_, ?_, ?_, ?_, ?_, ?_, ?_, ?_, ?_, ?_⟩ <;> decide

/-- The host numbers a row's bits from the least significant one (opcode table; 30_encoding.md R82). -/
theorem test_decodeTableWord : decodeTableWord 16 0xD12F = some (.drw 0x1 0x2 0xF) ∧ decodeTableWord 16 0x8128 = none := by
  decide

/-! ### Small states -/

/-- What a test looks at in the next state. -/
def look {α : Type} (o : Host.Outcome State Fault Refusal) (f : State → α) : Option α :=
  match o with
  | .next t => some (f t)
  | .fault _ => none
  | .refused _ => none

/-- The launch state with the word at 0x200 and these registers (95_test_vectors.md, Conventions). -/
def boot (w : Word) (regs : List (RegIx × Byte)) : State :=
  regs.foldl (fun s r => s.setReg r.1 r.2) (placeWord State.reset w)

/-- The same with bytes at an address and I there. -/
def bootAt (w : Word) (regs : List (RegIx × Byte)) (i : Word) (bytes : List Byte) : State :=
  { boot w regs with i := i, mem := (boot w regs).mem.store i.toNat bytes }

/-- The state with one pixel set. -/
def lit (s : State) (y : Fin 32) (x : Fin 64) : State := { s with fb := setPixel s.fb y x true }

/-- The columns of the set pixels of a row. -/
def litColumns (s : State) (y : Fin 32) : List (Fin 64) := (List.finRange 64).filter fun x => pixel s.fb y x

/-! ### Fetch, decode faults, fatal faults (vectors T23 to T31, T183) -/

theorem test_T183_step_without_load :
    look (step State.reset) (fun t => (t.outcome, t.df, t.dfpc, t.pc))
      = some (.decodeFault 0x200 0x0000, true, 0x200, 0x202) := by decide +kernel
theorem test_T27_fetch_at_1000 :
    look (step { State.reset with pc := 0x1000 }) (fun t => (t.outcome, t.status, t.fcause, t.finfo, t.pc))
      = some (.fatal 1 0x1000, .faulted, 1, 0x1000, 0x1000) := by decide +kernel
theorem test_T28_fetch_at_FFF :
    look (step { State.reset with pc := 0xFFF }) (fun t => (t.outcome, t.pc)) = some (.fatal 1 0x1000, 0xFFF) := by
  decide +kernel
theorem test_T29_fetch_at_10FE :
    look (step { State.reset with pc := 0x10FE }) (fun t => (t.outcome, t.pc)) = some (.fatal 1 0x10FE, 0x10FE) := by
  decide +kernel
theorem test_T30_faulted_stays :
    look (step { State.reset with status := .faulted, fcause := 1, finfo := 0x1000, pc := 0x1000 })
      (fun t => (t.outcome, t.status, t.pc)) = some (.fatal 1 0x1000, .faulted, 0x1000) := by decide +kernel
theorem test_T31_odd_pc :
    look (step { State.reset with pc := 0x203, mem := State.reset.mem.store 0x203 [0x6A, 0x55] })
      (fun t => (t.reg 0xA, t.pc)) = some (0x55, 0x205) := by decide +kernel
theorem test_T26_fetch_at_FFE :
    look (step { State.reset with pc := 0xFFE, mem := State.reset.mem.store 0xFFE [0x60, 0x05] })
      (fun t => (t.reg 0, t.pc, t.outcome)) = some (0x05, 0x1000, .ok) := by decide +kernel

/-! ### Control transfer -/

theorem test_T5_call :
    look (step (boot 0x2ABC [])) (fun t => (t.stack[0], t.sp, t.pc)) = some (0x202, 1, 0xABC) := by decide +kernel
theorem test_T6_call_on_full_stack :
    look (step { boot 0x2300 [] with sp := 16 }) (fun t => (t.outcome, t.fcause, t.finfo, t.sp, t.pc))
      = some (.fatal 2 0x200, 2, 0x200, 16, 0x200) := by decide +kernel
theorem test_T7_ret :
    look (exec .ret { State.reset with pc := 0xABC, sp := 1, stack := State.reset.stack.set 0 0x202 })
      (fun t => (t.sp, t.pc, t.stack[0])) = some (0, 0x202, 0x202) := by decide +kernel
theorem test_T8_ret_on_empty_stack :
    look (step (boot 0x00EE [])) (fun t => (t.outcome, t.fcause, t.finfo, t.sp, t.pc))
      = some (.fatal 3 0x200, 3, 0x200, 0, 0x200) := by decide +kernel
theorem test_T32_jp : look (step (boot 0x1ABC [])) (fun t => t.pc) = some 0xABC := by decide +kernel
theorem test_T36_jpV0_not_masked :
    look (step (boot 0xBFFF [(0, 0xFF)])) (fun t => (t.pc, t.outcome)) = some (0x10FE, .ok) := by decide +kernel
theorem test_T37_jpV0_uses_V0 :
    look (step (boot 0xB2F0 [(0, 0x11), (2, 0x77)])) (fun t => t.pc) = some 0x301 := by decide +kernel
theorem test_T60_seImm_taken : look (step (boot 0x3142 [(1, 0x42)])) (fun t => t.pc) = some 0x204 := by decide +kernel
theorem test_T61_seImm_not_taken : look (step (boot 0x3142 [(1, 0x43)])) (fun t => t.pc) = some 0x202 := by decide +kernel
theorem test_T62_sneImm_not_taken : look (step (boot 0x4142 [(1, 0x42)])) (fun t => t.pc) = some 0x202 := by decide +kernel
theorem test_T63_sneImm_taken : look (step (boot 0x4142 [(1, 0x43)])) (fun t => t.pc) = some 0x204 := by decide +kernel
theorem test_T64_seReg_taken : look (step (boot 0x5120 [(1, 7), (2, 7)])) (fun t => t.pc) = some 0x204 := by decide +kernel
theorem test_T65_seReg_not_taken : look (step (boot 0x5120 [(1, 7), (2, 8)])) (fun t => t.pc) = some 0x202 := by decide +kernel
theorem test_T67_sneReg_taken : look (step (boot 0x9120 [(1, 7), (2, 8)])) (fun t => t.pc) = some 0x204 := by decide +kernel
theorem test_T68_sneReg_not_taken : look (step (boot 0x9120 [(1, 7), (2, 7)])) (fun t => t.pc) = some 0x202 := by decide +kernel

/-! ### Register load, arithmetic, logic, shifts, random -/

theorem test_T80_ldImm : look (step (boot 0x6A03 [])) (fun t => (t.reg 0xA, t.pc)) = some (0x03, 0x202) := by decide +kernel
theorem test_T83_addImm_no_carry :
    look (step (boot 0x7102 [(1, 0xFF)])) (fun t => (t.reg 1, t.reg 15)) = some (0x01, 0) := by decide +kernel
theorem test_T84_addImm_to_VF : look (step (boot 0x7F01 [(15, 0xFF)])) (fun t => t.reg 15) = some 0x00 := by decide +kernel
theorem test_T86_ldReg : look (step (boot 0x8120 [(2, 0x7C)])) (fun t => (t.reg 1, t.reg 2)) = some (0x7C, 0x7C) := by
  decide +kernel
theorem test_T87_orReg :
    look (step (boot 0x8121 [(1, 0xF0), (2, 0x0F), (15, 7)])) (fun t => (t.reg 1, t.reg 15)) = some (0xFF, 7) := by
  decide +kernel
theorem test_T88_andReg :
    look (step (boot 0x8122 [(1, 0xF3), (2, 0x3C), (15, 7)])) (fun t => (t.reg 1, t.reg 15)) = some (0x30, 7) := by
  decide +kernel
theorem test_T89_xorReg :
    look (step (boot 0x8123 [(1, 0xFF), (2, 0x0F), (15, 7)])) (fun t => (t.reg 1, t.reg 15)) = some (0xF0, 7) := by
  decide +kernel
theorem test_T40_addReg_carry :
    look (step (boot 0x8124 [(1, 0xFF), (2, 0x01)])) (fun t => (t.reg 1, t.reg 15)) = some (0x00, 1) := by decide +kernel
theorem test_T45_addReg_to_VF : look (step (boot 0x8F14 [(15, 0xFF), (1, 2)])) (fun t => t.reg 15) = some 0x01 := by
  decide +kernel
theorem test_T46_sub_borrow :
    look (step (boot 0x8125 [(1, 0x01), (2, 0x02)])) (fun t => (t.reg 1, t.reg 15)) = some (0xFF, 0) := by decide +kernel
theorem test_T96_sub_y_is_F :
    look (step (boot 0x81F5 [(1, 0x05), (15, 0x03)])) (fun t => (t.reg 1, t.reg 15)) = some (0x04, 1) := by decide +kernel
theorem test_T58_shr_ignores_y :
    look (step (boot 0x8126 [(1, 0xFE), (2, 0x55), (15, 9)])) (fun t => (t.reg 1, t.reg 15, t.reg 2))
      = some (0x7F, 0, 0x55) := by decide +kernel
theorem test_T59_shr_of_VF : look (step (boot 0x8F06 [(15, 0x03)])) (fun t => t.reg 15) = some 0x00 := by decide +kernel
theorem test_T51_subn_borrow :
    look (step (boot 0x8127 [(1, 0x05), (2, 0x02)])) (fun t => (t.reg 1, t.reg 15)) = some (0xFD, 0) := by decide +kernel
theorem test_T99_subn_x_is_F : look (step (boot 0x8F17 [(15, 0x05), (1, 0x03)])) (fun t => t.reg 15) = some 0x03 := by
  decide +kernel
theorem test_T53_shl_ignores_y :
    look (step (boot 0x812E [(1, 0x81), (2, 0x55)])) (fun t => (t.reg 1, t.reg 15, t.reg 2)) = some (0x02, 1, 0x55) := by
  decide +kernel
theorem test_T104_shl_of_VF : look (step (boot 0x8F0E [(15, 0x81)])) (fun t => t.reg 15) = some 0x02 := by decide +kernel
theorem test_T106_rnd :
    look (step { boot 0xC30F [] with inp := { keyLevel := 0, keyEvent := none, rand := 0xB7 } }) (fun t => t.reg 3)
      = some 0x07 := by decide +kernel

/-! ### The address register and memory transfers -/

theorem test_T131_ldI : look (step { boot 0xAFFF [] with i := 0x1234 }) (fun t => t.i) = some 0xFFF := by decide +kernel
theorem test_T133_addI_not_masked :
    look (step { boot 0xF11E [(1, 1)] with i := 0xFFF }) (fun t => (t.i, t.reg 15)) = some (0x1000, 0) := by decide +kernel
theorem test_T134_addI_wraps : look (step { boot 0xF11E [(1, 2)] with i := 0xFFFF }) (fun t => t.i) = some 0x0001 := by
  decide +kernel
/-- Vector T135 for every FONT_BASE. -/
theorem test_T135_ldF :
    look (exec (.ldF 4) (boot 0xF429 [(4, 0x0A)])) (fun t => t.i) = some (BitVec.ofNat 16 (Config.fontBase.val + 50)) := rfl
theorem test_T139_ldB :
    look (step (bootAt 0xF033 [(0, 0xFE)] 0x300 [])) (fun t => (t.mem.load 0x300 3, t.i)) = some ([2, 5, 4], 0x300) := by
  decide +kernel
theorem test_T143_ldB_out_of_range :
    look (step (bootAt 0xF133 [(1, 0xFF)] 0xFFE [])) (fun t => (t.outcome, t.mem.load 0xFFE 2, t.pc))
      = some (.fatal 1 0x1000, [0, 0], 0x200) := by decide +kernel
theorem test_T145_ldMemVx :
    look (step (bootAt 0xF255 [(0, 1), (1, 2), (2, 3), (3, 4)] 0x400 [])) (fun t => (t.mem.load 0x400 4, t.i))
      = some ([1, 2, 3, 0], 0x400) := by decide +kernel
theorem test_T148_ldMemVx_out_of_range :
    look (step (bootAt 0xF255 [(0, 1), (1, 2), (2, 3)] 0xFFE [])) (fun t => (t.outcome, t.mem.load 0xFFE 2))
      = some (.fatal 1 0x1000, [0, 0]) := by decide +kernel
theorem test_T154_ldVxMem :
    look (step (bootAt 0xF265 [(3, 0x33)] 0x400 [9, 8, 7, 6])) (fun t => (t.reg 0, t.reg 1, t.reg 2, t.reg 3, t.i))
      = some (9, 8, 7, 0x33, 0x400) := by decide +kernel
theorem test_T156_ldVxMem_out_of_range :
    look (step (bootAt 0xFF65 [(0, 0x55)] 0xFF1 [])) (fun t => (t.outcome, t.reg 0)) = some (.fatal 1 0x1000, 0x55) := by
  decide +kernel

/-! ### The framebuffer -/

theorem test_T110_cls :
    look (step (lit (boot 0x00E0 [(15, 1)]) 3 4)) (fun t => (t.fb, t.dirty, t.reg 15)) = some (clearFb, true, 1) := by
  decide +kernel
theorem test_T114_drw_wraps :
    look (step (bootAt 0xD012 [(0, 62), (1, 31)] 0x20C [0xC0, 0xFF]))
      (fun t => (litColumns t 31, litColumns t 0, litColumns t 1, t.reg 15, t.dirty))
      = some ([62, 63], [0, 1, 2, 3, 4, 5, 62, 63], [], 0, true) := by decide +kernel
theorem test_T119_drw_collides :
    look (step (lit (bootAt 0xD011 [] 0x300 [0xC0]) 0 0)) (fun t => (litColumns t 0, t.reg 15)) = some ([1], 1) := by
  decide +kernel

/-! ### Keypad and timers -/

theorem test_T161_skp_not_taken :
    look (step { boot 0xE59E [(5, 7)] with inp := { keyLevel := 0xFF7F, keyEvent := none, rand := 0 } }) (fun t => t.pc)
      = some 0x202 := by decide +kernel
theorem test_T160_skp_taken :
    look (step { boot 0xE59E [(5, 7)] with inp := { keyLevel := 0x0080, keyEvent := none, rand := 0 } }) (fun t => t.pc)
      = some 0x204 := by decide +kernel
theorem test_T162_sknp_not_taken :
    look (step { boot 0xE5A1 [(5, 7)] with inp := { keyLevel := 0x0080, keyEvent := none, rand := 0 } }) (fun t => t.pc)
      = some 0x202 := by decide +kernel
theorem test_T163_sknp_taken : look (step (boot 0xE5A1 [(5, 7)])) (fun t => t.pc) = some 0x204 := by decide +kernel
theorem test_T165_ldVxK_waits :
    look (step { boot 0xF50A [] with inp := { keyLevel := 0xFFFF, keyEvent := none, rand := 0 } })
      (fun t => (t.outcome, t.pc, t.reg 5)) = some (.waitingForKey, 0x200, 0) := by decide +kernel
theorem test_T166_ldVxK_gets_the_key :
    look (step { boot 0xF50A [] with inp := { keyLevel := 0, keyEvent := some 7, rand := 0 } })
      (fun t => (t.outcome, t.pc, t.reg 5)) = some (.ok, 0x202, 7) := by decide +kernel
theorem test_T169_ldVxDt :
    look (step { boot 0xFB07 [] with dt := 3 }) (fun t => (t.reg 0xB, t.dt)) = some (3, 3) := by decide +kernel
theorem test_T174_ldDtVx :
    look (step { boot 0xFA15 [(0xA, 3)] with dt := 0x50 }) (fun t => (t.dt, t.st)) = some (3, 0) := by decide +kernel
theorem test_T175_ldStVx : look (step (boot 0xF118 [(1, 2)])) (fun t => (t.st, t.dt, t.beep)) = some (2, 0, false) := by
  decide +kernel

/-! ### The host operations -/

theorem test_T176_tick_beeps :
    look (operate .tick { State.reset with st := 1 }) (fun t => (t.beep, t.st, t.dt)) = some (true, 0, 0) := by decide +kernel
theorem test_T178_tick_while_faulted :
    look (operate .tick { State.reset with status := .faulted, dt := 5 }) (fun t => (t.dt, t.status)) = some (4, .faulted) := by
  decide +kernel
theorem test_T170_load_empty :
    look (operate (.load []) State.reset) (fun t => (t.loadOutcome, t.mem, t.status)) = some (.romEmpty, [], .running) := by
  decide +kernel
theorem test_T173_load_one_byte :
    look (operate (.load [0x61]) State.reset) (fun t => (t.loadOutcome, t.mem.load 0x200 2, t.pc))
      = some (.ok, [0x61, 0x00], 0x200) := by decide +kernel
theorem test_T181_consumeFrame :
    look (operate .consumeFrame { lit State.reset 3 4 with dirty := true }) (fun t => (t.dirty, litColumns t 3))
      = some (false, [4]) := by decide +kernel
theorem test_T180_reset :
    look (operate .reset { lit State.reset 3 4 with status := .faulted, sp := 16, dt := 9, df := true })
      (fun t => (t.status, t.sp, t.dt, t.df, litColumns t 3)) = some (.running, 0, 0, false, []) := by decide +kernel

/-! ### Witnesses: concrete states and operands that meet the hypotheses of each statement, clause by clause -/

theorem test_witness_DecodeInvertsEncode : (Instr.drw 0xF 0xF 0xF).wf = true ∧ (Instr.jp 0xFFF).wf = true := by decide

theorem test_witness_RecognizedWordHasOneMeaning : decodeWord 0x9FF0 = .ok (.sneReg 0xF 0xF) := by decide

/-- From a list check to a statement about each row. -/
theorem noRow_of_all {w : Word} (h : (opcodeRows.all fun row => !rowSelects row w) = true) :
    ∀ row ∈ opcodeRows, rowSelects row w = false :=
  fun row hr => by simpa using List.all_eq_true.mp h row hr

theorem test_witness_DecoderFollowsOpcodeTable :
    decodeWord 0xFF65 = .ok (.ldVxMem 0xF) ∧ ∀ row ∈ opcodeRows, rowSelects row 0xFF66 = false :=
  ⟨by decide, noRow_of_all (by decide)⟩

theorem test_witness_NoWordSelectsTwoRows :
    (0xF00F, 0x800E) ∈ opcodeRows ∧ rowSelects (0xF00F, 0x800E) 0x8FFE = true := by decide +kernel

/-- The reset state has the reset values. -/
theorem test_witness_AtReset : AtReset State.reset := by
  refine ⟨unlisted_eq, by decide, rfl, rfl, rfl, by decide, rfl, rfl, fun y x => ?_, rfl, rfl, rfl, rfl, rfl, rfl, rfl⟩
  · simp [State.reset, pixel]

/-- Lengths 0, 1, 3584 and 3585. -/
theorem test_witness_LoadCopiesRomOrChangesNothing :
    State.reset.loadOpen = true ∧ State.reset.mem.wf = true ∧ ([] : List Byte).length = 0
    ∧ 1 ≤ ([0x61] : List Byte).length ∧ (List.replicate 3584 (0 : Byte)).length ≤ 3584
    ∧ 3584 < (List.replicate 3585 (0 : Byte)).length :=
  ⟨rfl, rfl, rfl, by decide, le_of_eq List.length_replicate, lt_of_lt_of_eq (by decide) List.length_replicate.symm⟩

/-- A Step and a Load both have a next state, which refuses the Load that follows; Ticks and ConsumeFrames go on. -/
theorem test_witness_LoadOnlyOnceAfterReset :
    look (operate (.step State.reset.inp) State.reset) (fun t => t.loadOpen) = some false
    ∧ look (operate (.load [0x61]) State.reset) (fun t => t.loadOpen) = some false
    ∧ look (operateAll [.reset, .tick, .consumeFrame] State.reset) (fun t => t.loadOpen) = some true := by decide +kernel

/-- A Tick, a Step that executes Fx18, and a Tick: no write of DT, which loses two counts. -/
theorem test_witness_TimersCountTicks_dt :
    NoWrite writesDt [.tick, .step State.reset.inp, .tick] { boot 0xF118 [(1, 9)] with dt := 2, st := 1 }
    ∧ look (operateAll [.tick, .step State.reset.inp, .tick] { boot 0xF118 [(1, 9)] with dt := 2, st := 1 })
        (fun t => (t.dt, t.st)) = some (0, 8) := by
  refine ⟨⟨nofun, nofun, ?_⟩, by decide +kernel⟩
  rintro _ ⟨⟩
  refine ⟨nofun, ?_, ?_⟩
  · rintro _ ⟨⟩ i hi
    have : some i = some (.ldStVx 1) := hi.symm.trans (by decide +kernel)
    cases this; rfl
  · intro t _
    exact ⟨nofun, nofun, fun _ _ => trivial⟩

/-- The same with Fx15: no write of ST. -/
theorem test_witness_TimersCountTicks_st :
    NoWrite writesSt [.tick, .step State.reset.inp, .tick] { boot 0xF115 [(1, 9)] with dt := 1, st := 2 }
    ∧ look (operateAll [.tick, .step State.reset.inp, .tick] { boot 0xF115 [(1, 9)] with dt := 1, st := 2 })
        (fun t => (t.dt, t.st)) = some (8, 0) := by
  refine ⟨⟨nofun, nofun, ?_⟩, by decide +kernel⟩
  rintro _ ⟨⟩
  refine ⟨nofun, ?_, ?_⟩
  · rintro _ ⟨⟩ i hi
    have : some i = some (.ldDtVx 1) := hi.symm.trans (by decide +kernel)
    cases this; rfl
  · intro t _
    exact ⟨nofun, nofun, fun _ _ => trivial⟩

theorem test_witness_StepRunsTheDecodedInstruction :
    ∃ s : State, s.status = .running ∧ s.pc.toNat = 0xFFE ∧ (Instr.ldImm 0 5).wf = true
      ∧ decode [s.mem.read s.pc.toNat, s.mem.read (s.pc.toNat + 1)] = .ok (.ldImm 0 5, []) :=
  ⟨{ State.reset with pc := 0xFFE, mem := State.reset.mem.store 0xFFE [0x60, 0x05] }, by decide +kernel⟩

theorem test_witness_UnrecognizedWordIsReportedNoOp :
    State.reset.status = .running ∧ State.reset.pc.toNat ≤ 0xFFE
    ∧ (0 : Word).toNat
      = (State.reset.mem.read State.reset.pc.toNat).toNat * 256 + (State.reset.mem.read (State.reset.pc.toNat + 1)).toNat
    ∧ ∀ row ∈ opcodeRows, rowSelects row 0 = false :=
  ⟨rfl, by decide, rfl, noRow_of_all (by decide)⟩

/-- PC = 0xFFE, and an odd PC. -/
theorem test_witness_FetchIsBigEndianAtAnyParity :
    ({ State.reset with pc := 0xFFE } : State).pc.toNat ≤ 0xFFE ∧ ({ State.reset with pc := 0xFFD } : State).pc.toNat ≤ 0xFFE := by
  decide

/-- PC = 0xFFF and PC = 0x1000, and what the fetch at them answers. -/
theorem test_witness_FetchOutOfRangeFaults :
    0xFFE < ({ State.reset with pc := 0xFFF } : State).pc.toNat ∧ State.reset.status = .running
    ∧ fetch { State.reset with pc := 0xFFF } = .error (.memoryOutOfRange 0x1000)
    ∧ fetch { State.reset with pc := 0x1000 } = .error (.memoryOutOfRange 0x1000) := by decide +kernel

theorem test_witness_FaultedIsAbsorbing : ({ State.reset with status := .faulted, fcause := 1 } : State).status = .faulted := rfl

/-- Each of the six instructions that can raise a fatal fault does so on some state. -/
theorem test_witness_FatalFaultsArePrecise :
    look (exec .ret State.reset) (fun t => (t.status, t.fcause)) = some (.faulted, 3)
    ∧ look (exec (.call 0) { State.reset with sp := 16 }) (fun t => (t.status, t.fcause)) = some (.faulted, 2)
    ∧ look (exec (.drw 0 0 2) { State.reset with i := 0xFFF }) (fun t => (t.status, t.fcause)) = some (.faulted, 1)
    ∧ look (exec (.ldB 0) { State.reset with i := 0xFFE }) (fun t => (t.status, t.fcause)) = some (.faulted, 1)
    ∧ look (exec (.ldMemVx 0xF) { State.reset with i := 0xFF1 }) (fun t => (t.status, t.fcause)) = some (.faulted, 1)
    ∧ look (exec (.ldVxMem 0) { State.reset with i := 0x1000 }) (fun t => (t.status, t.fcause)) = some (.faulted, 1) := by
  decide +kernel

/-- The two cases of the stack, of the skips and of the data accesses, at the values where they meet. -/
theorem test_witness_PcAdvancesByTheTable :
    look (exec .ret State.reset) (fun t => t.pc) = some 0x200
    ∧ look (exec .ret { State.reset with sp := 16, stack := Vector.replicate 16 0x1000 }) (fun t => t.pc) = some 0x1000
    ∧ look (exec (.call 0xFFF) { State.reset with sp := 15 }) (fun t => t.pc) = some 0xFFF
    ∧ look (exec (.call 0xFFF) { State.reset with sp := 16 }) (fun t => t.pc) = some 0x200
    ∧ look (exec (.seImm 0 0) State.reset) (fun t => t.pc) = some 0x204
    ∧ look (exec (.seImm 0 1) State.reset) (fun t => t.pc) = some 0x202
    ∧ look (exec (.ldVxK 0) State.reset) (fun t => t.pc) = some 0x200
    ∧ look (exec (.drw 0 0 0) { State.reset with i := 0x1FFF }) (fun t => t.pc) = some 0x202
    ∧ look (exec (.drw 0 0 1) { State.reset with i := 0xFFF }) (fun t => t.pc) = some 0x202
    ∧ look (exec (.drw 0 0 1) { State.reset with i := 0x1000 }) (fun t => t.pc) = some 0x200 := by decide +kernel

/-- A register, and memory, that an instruction does not write. -/
theorem test_witness_OnlyTheListedInstructionsWrite :
    look (exec (.addReg 1 2) State.reset) (fun t => t.pc) = some 0x202 ∧ writesReg (.addReg 1 2) 3 = false
    ∧ writesReg (.ldVxMem 2) 3 = false ∧ writesReg (.drw 1 2 3) 1 = false ∧ writesIndex (.ldMemVx 3) = false
    ∧ writesSp (.jp 0) = false ∧ writesStack .ret = false ∧ writesMem (.ldVxMem 3) = false ∧ writesScreen (.ldF 3) = false
    ∧ writesDt (.ldStVx 3) = false ∧ writesSt (.ldDtVx 3) = false := by decide +kernel

theorem test_witness_InputsAreIgnoredByOtherInstructions :
    usesInputs (.ldVxDt 3) = false ∧ look (exec (.ldVxDt 3) State.reset) (fun t => t.pc) = some 0x202 := by decide +kernel

theorem test_witness_FinishedRunsStayFinished : Finished (boot 0x1200 []) :=
  ⟨⟨rfl, rfl⟩, 0x200, by decide +kernel, by decide +kernel⟩

/-- The extreme values: PC = 0x10FE, one live entry 0x1000, a listed byte at 0xFFF; and a Step and a Tick from there. -/
theorem test_witness_StepAndHostOperationsKeepTheInvariant :
    ∃ s : State, MachineInv s ∧ look (step s) (fun t => t.status) = some .faulted
      ∧ look (operate .tick s) (fun t => t.status) = some .running := by
  refine ⟨{ State.reset with
    pc := 0x10FE, sp := 1, stack := State.reset.stack.set 0 0x1000, mem := State.reset.mem.store 0xFFF [0xAB] }, ?_,
    by decide +kernel, by decide +kernel⟩
  exact ⟨by decide +kernel, by decide, by decide +kernel, nofun, fun _ => ⟨rfl, rfl⟩, fun _ => ⟨rfl, rfl⟩⟩

theorem test_witness_JumpSetsPc :
    look (exec (.jp 0xFFF) State.reset) (fun t => (t.pc, (fetch t).toOption)) = some (0xFFF, none) := by decide +kernel

/-- One live entry, and sixteen. -/
theorem test_witness_ReturnPopsPc :
    ({ State.reset with sp := 1 } : State).sp.val = (0 : Fin 16).val + 1
    ∧ ({ State.reset with sp := 16 } : State).sp.val = (15 : Fin 16).val + 1 := by decide

theorem test_witness_ReturnOnEmptyStackFaults : State.reset.sp.val = 0 := rfl

/-- No live entry, and fifteen. -/
theorem test_witness_CallPushesTheReturnAddress :
    State.reset.sp.val = (0 : Fin 16).val ∧ ({ State.reset with sp := 15 } : State).sp.val = (15 : Fin 16).val := by decide

theorem test_witness_CallOnFullStackFaults : ({ State.reset with sp := 16 } : State).sp.val = 16 := rfl

theorem test_witness_PushNeedsRoom :
    State.reset.sp.val = (0 : Fin 16).val ∧ 16 ≤ ({ State.reset with sp := 16 } : State).sp.val
    ∧ (List.replicate 16 (0x300 : Addr)).length = 16 ∧ State.reset.status = .running := by decide

/-- A call, a nested call and its return, an addition, and the return. -/
theorem test_witness_BalancedCallsReturnToTheCaller :
    Balanced [.call 0x300, .ldImm 0 1, .ret, .addImm 0 1]
    ∧ look (execAll (.call 0x210 :: [.call 0x300, .ldImm 0 1, .ret, .addImm 0 1] ++ [.ret]) State.reset)
        (fun t => (t.status, t.pc, t.sp)) = some (.running, 0x202, 0) := by
  refine ⟨?_, by decide +kernel⟩
  exact .nested 0x300 [.ldImm 0 1] [.addImm 0 1] (.plain _ _ nofun nofun .nil) (.plain _ _ nofun nofun .nil)

/-- At 0x200 a call of 0x206; there a decode fault, Fx0A, which waits for a key and then gets one, and the return; Ticks and a
ConsumeFrame in between. -/
def callProgram : State := { State.reset with mem := State.reset.mem.store 0x200 [0x22, 0x06, 0, 0, 0, 0, 0, 0, 0xF1, 0x0A, 0x00, 0xEE] }

/-- Inputs with no key held and this key event. -/
def keyed (k : Option (BitVec 4)) : Inputs := { keyLevel := 0, keyEvent := k, rand := 0 }

/-- The operations between the call and the return. -/
def callMiddle : List HostOp := [.tick, .step (keyed none), .step (keyed none), .consumeFrame, .step (keyed (some 5))]

theorem test_witness_BalancedRunsReturnToTheCaller :
    Balanced [.ldVxK 1, .ldVxK 1] ∧ (callMiddle.all fun op => op != .reset) = true
    ∧ executes (present (keyed none) callProgram) = some (.call 0x206)
    ∧ executedIn (.step (keyed none) :: callMiddle) callProgram = [.call 0x206, .ldVxK 1, .ldVxK 1]
    ∧ look (operateAll (.step (keyed none) :: callMiddle) callProgram) (fun m => executes (present (keyed none) m)) = some (some .ret)
    ∧ look (operateAll (.step (keyed none) :: callMiddle ++ [.step (keyed none)]) callProgram)
        (fun t => (t.status, t.pc, t.sp, t.df, t.reg 1)) = some (.running, 0x202, 0, true, 5) :=
  ⟨.plain _ _ nofun nofun (.plain _ _ nofun nofun .nil), by decide +kernel, by decide +kernel, by decide +kernel,
    by decide +kernel, by decide +kernel⟩

/-- Program P5 of 95_test_vectors.md: 16 calls by 0x2200, and the 17th. -/
theorem test_witness_BalancedRuns_seventeen_calls :
    (List.replicate 16 (0x200 : Addr)).length = 16 ∧ (boot 0x2200 []).sp.val = 0
    ∧ executedIn (List.replicate 16 (.step (keyed none))) (boot 0x2200 []) = (List.replicate 16 0x200).map .call
    ∧ look (operateAll (List.replicate 16 (.step (keyed none))) (boot 0x2200 []))
        (fun t => (t.sp, executes (present (keyed none) t))) = some (16, some (.call 0x200)) := by
  decide +kernel

/-- The low nibbles 1 and 15 of a class 5 and a class 9 word. -/
theorem test_witness_RegisterSkips :
    decodeWord 0x5121 = .error (.unrecognized 0x5121) ∧ decodeWord 0x912F = .error (.unrecognized 0x912F) := by decide

theorem test_witness_AddSetsCarry :
    (14 : RegIx) ≠ 15 ∧ look (exec (.addReg 14 1) (boot 0 [(14, 0xFF), (1, 1)])) (fun t => (t.reg 14, t.reg 15)) = some (0, 1)
    ∧ look (exec (.addReg 15 1) (boot 0 [(15, 0xFF)])) (fun t => t.reg 15) = some 0 := by decide +kernel

/-- The four cases of VF as an operand, with the flag 1 and the flag 0. -/
theorem test_witness_SubtractSetsNotBorrow :
    1 = (if ((boot 0 [(1, 7), (2, 7)]).reg 2).toNat ≤ ((boot 0 [(1, 7), (2, 7)]).reg 1).toNat then 1 else 0)
    ∧ 0 = (if ((boot 0 [(1, 6), (2, 7)]).reg 2).toNat ≤ ((boot 0 [(1, 6), (2, 7)]).reg 1).toNat then 1 else 0)
    ∧ look (exec (.sub 1 2) (boot 0 [(1, 7), (2, 7)])) (fun t => (t.reg 1, t.reg 15)) = some (0, 1)
    ∧ look (exec (.sub 1 15) (boot 0 [(1, 2), (15, 3)])) (fun t => (t.reg 1, t.reg 15)) = some (2, 0)
    ∧ look (exec (.sub 15 1) (boot 0 [(1, 3), (15, 2)])) (fun t => t.reg 15) = some 0xFD
    ∧ look (exec (.sub 15 15) (boot 0 [(15, 9)])) (fun t => t.reg 15) = some 0 := by decide +kernel

theorem test_witness_SubtractReversedSetsNotBorrow :
    1 = (if ((boot 0 [(1, 4), (2, 4)]).reg 1).toNat ≤ ((boot 0 [(1, 4), (2, 4)]).reg 2).toNat then 1 else 0)
    ∧ 0 = (if ((boot 0 [(1, 5), (2, 4)]).reg 1).toNat ≤ ((boot 0 [(1, 5), (2, 4)]).reg 2).toNat then 1 else 0)
    ∧ look (exec (.subn 1 2) (boot 0 [(1, 4), (2, 4)])) (fun t => (t.reg 1, t.reg 15)) = some (0, 1)
    ∧ look (exec (.subn 1 15) (boot 0 [(1, 5), (15, 3)])) (fun t => (t.reg 1, t.reg 15)) = some (0xFB, 0)
    ∧ look (exec (.subn 15 1) (boot 0 [(1, 3), (15, 2)])) (fun t => t.reg 15) = some 2
    ∧ look (exec (.subn 15 15) (boot 0 [(15, 9)])) (fun t => t.reg 15) = some 0 := by decide +kernel

theorem test_witness_ShiftsByOneInPlace :
    look (exec (.shr 14 0) (boot 0 [(14, 3)])) (fun t => (t.reg 14, t.reg 15)) = some (1, 1)
    ∧ look (exec (.shr 15 0) (boot 0 [(15, 0xFF)])) (fun t => t.reg 15) = some 0
    ∧ look (exec (.shl 14 0) (boot 0 [(14, 0x81)])) (fun t => (t.reg 14, t.reg 15)) = some (2, 1)
    ∧ look (exec (.shl 15 0) (boot 0 [(15, 0x7F)])) (fun t => t.reg 15) = some 0 := by decide +kernel

/-- Bits 0 and 7. -/
theorem test_witness_BitwiseAndRandom :
    look (exec (.xorReg 1 2) (boot 0 [(1, 0x81), (2, 0x80)])) (fun t => ((t.reg 1).getLsbD 0, (t.reg 1).getLsbD 7))
      = some (true, false)
    ∧ look (exec (.rnd 1 0x80) { State.reset with inp := { keyLevel := 0, keyEvent := none, rand := 0xFF } })
        (fun t => ((t.reg 1).getLsbD 0, (t.reg 1).getLsbD 7)) = some (false, true) := by decide +kernel

theorem test_witness_GlyphAddress : ((boot 0 [(4, 15)]).reg 4).toNat ≤ 15 := by decide +kernel

/-- I = 0xFFD and I = 0xFFE. -/
theorem test_witness_DecimalDigitsAreStored :
    State.reset.mem.wf = true ∧ ({ State.reset with i := 0xFFD } : State).i.toNat ≤ 0xFFD
    ∧ 0xFFD < ({ State.reset with i := 0xFFE } : State).i.toNat := by decide

/-- The highest I for x = 0 and for x = 15. -/
theorem test_witness_RegisterBlockIsStored :
    State.reset.mem.wf = true ∧ ({ State.reset with i := 0xFFF } : State).i.toNat + (0 : RegIx).toNat ≤ 0xFFF
    ∧ ({ State.reset with i := 0xFF0 } : State).i.toNat + (15 : RegIx).toNat ≤ 0xFFF
    ∧ look (exec (.ldMemVx 15) { boot 0 [(15, 0x1F)] with i := 0xFF0 }) (fun t => t.mem.read 0xFFF) = some 0x1F := by
  decide +kernel

/-- A register at the end of the block, and one above it. -/
theorem test_witness_RegisterBlockIsLoaded :
    ({ State.reset with i := 0xFFD } : State).i.toNat + (2 : RegIx).toNat ≤ 0xFFF
    ∧ (2 : RegIx).toNat ≤ (2 : RegIx).toNat ∧ (2 : RegIx).toNat < (3 : RegIx).toNat := by decide

/-- One address past the end, for a transfer and for a sprite. -/
theorem test_witness_TransferOutOfRangeFaults :
    0xFFF < ({ State.reset with i := 0xFFE } : State).i.toNat + (2 : RegIx).toNat
    ∧ (2 : BitVec 4) ≠ 0 ∧ 0xFFF < ({ State.reset with i := 0xFFF } : State).i.toNat + ((2 : BitVec 4).toNat - 1) := by decide

/-- The highest PC and I; and stores that reach the next instruction's word, at 0x202, only in part: Fx55 and Fx33 from 0x200
with their last byte, Fx33 from 0x203 with its first. -/
theorem test_witness_StoreIsSeenByTheNextFetch :
    ({ State.reset with pc := 0xFFC } : State).pc.toNat + 2 ≤ 0xFFE
    ∧ ({ State.reset with i := 0xFF0 } : State).i.toNat + (15 : RegIx).toNat ≤ 0xFFF
    ∧ ({ State.reset with i := 0xFFD } : State).i.toNat ≤ 0xFFD
    ∧ look (exec (.ldMemVx 2) (bootAt 0 [(2, 0x12)] 0x200 [])) (fun t => (fetch t).toOption) = some (some 0x1200)
    ∧ look (exec (.ldB 0) (bootAt 0 [(0, 254)] 0x200 [])) (fun t => (fetch t).toOption) = some (some 0x0400)
    ∧ look (exec (.ldB 0) (bootAt 0 [(0, 254)] 0x203 [])) (fun t => (fetch t).toOption) = some (some 0x0002) := by
  decide +kernel

/-- n = 0 with any I, n = 15 at the highest I; a draw that collides and one that does not. -/
theorem test_witness_DrawXorsTheSprite :
    ({ State.reset with i := 0xFF1 } : State).i.toNat + ((15 : BitVec 4).toNat - 1) ≤ 0xFFF
    ∧ look (exec (.drw 0 1 1) (lit (bootAt 0 [] 0x300 [0x80]) 0 0)) (fun t => (pixel t.fb 0 0, t.reg 15)) = some (false, 1)
    ∧ look (exec (.drw 0 1 1) (bootAt 0 [] 0x300 [0x80])) (fun t => (pixel t.fb 0 0, t.reg 15)) = some (true, 0)
    ∧ look (exec (.drw 0 1 0) (lit (bootAt 0 [] 0x1FFF []) 0 0)) (fun t => (pixel t.fb 0 0, t.reg 15)) = some (true, 0) := by
  decide +kernel

/-- A sprite bit on an unset pixel; and a sprite whose only bit falls on a set pixel (vector T121). -/
theorem test_witness_DrawingTwiceRestoresTheScreen :
    (0 : RegIx) ≠ 15 ∧ (1 : RegIx) ≠ 15 ∧ (bootAt 0 [] 0x300 [0x80]).i.toNat + ((1 : BitVec 4).toNat - 1) ≤ 0xFFF
    ∧ spriteHits (bootAt 0 [] 0x300 [0x80]) 0 1 1 0 0 = true ∧ pixel (bootAt 0 [] 0x300 [0x80]).fb 0 0 = false
    ∧ spriteHits (bootAt 0 [] 0x300 [0x80]) 0 1 1 0 1 = false
    ∧ pixel (lit (bootAt 0 [] 0x300 [0x80]) 0 0).fb 0 0 = true := by decide +kernel

/-- Key 15, held and not held. -/
theorem test_witness_KeypadSkips :
    ((boot 0 [(5, 15)]).reg 5).toNat ≤ 15
    ∧ look (exec (.skp 5) { boot 0 [(5, 15)] with inp := { keyLevel := 0x8000, keyEvent := none, rand := 0 } }) (fun t => t.pc)
      = some 0x204
    ∧ look (exec (.sknp 5) { boot 0 [(5, 15)] with inp := { keyLevel := 0x7FFF, keyEvent := none, rand := 0 } }) (fun t => t.pc)
      = some 0x204 := by decide +kernel

theorem test_witness_KeyWaitEndsWithAnEvent :
    State.reset.inp.keyEvent = none
    ∧ (present { keyLevel := 0, keyEvent := some 15, rand := 0 } State.reset).inp.keyEvent = some 15 := by decide

end Sys2Proof.Tests
end

/-! PROOFS. The encoding: decoder and encoder are inverse to each other, and the spec's sample words. -/

namespace Sys2Proof

/-! ### A word is packed from its class and its fields, when some of them are known -/

theorem packNNN_of_class {w : Word} {c : BitVec 4} (hc : (fieldClass w).toNat = c.toNat) :
    packNNN c (fieldNNN w) = w := by
  rw [← BitVec.eq_of_toNat_eq hc, packNNN_fields]

theorem packXKK_of_class {w : Word} {c : BitVec 4} (hc : (fieldClass w).toNat = c.toNat) :
    packXKK c (fieldX w) (fieldKK w) = w := by
  rw [← BitVec.eq_of_toNat_eq hc, packXKK_fields]

theorem packXYN_of_class {w : Word} {c : BitVec 4} (hc : (fieldClass w).toNat = c.toNat) :
    packXYN c (fieldX w) (fieldY w) (fieldN w) = w := by
  rw [← BitVec.eq_of_toNat_eq hc, packXYN_fields]

theorem packXKK_of_class_kk {w : Word} {c : BitVec 4} {kk : Byte} (hc : (fieldClass w).toNat = c.toNat)
    (hk : (fieldKK w).toNat = kk.toNat) : packXKK c (fieldX w) kk = w := by
  rw [← BitVec.eq_of_toNat_eq hk, packXKK_of_class hc]

theorem packXYN_of_class_n {w : Word} {c n : BitVec 4} (hc : (fieldClass w).toNat = c.toNat)
    (hn : (fieldN w).toNat = n.toNat) : packXYN c (fieldX w) (fieldY w) n = w := by
  rw [← BitVec.eq_of_toNat_eq hn, packXYN_of_class hc]

/-! ### Decoding an encoded instruction -/

/-- By the formats of 30_encoding.md R72: the class of the packed word chooses the branch, and its other fields give back
the operands and select the row within the class. -/
@[simp] theorem decodeWord_encode (i : Instr) : decodeWord (encode i) = .ok i := by
  cases i
  case cls | ret => rfl
  case jp | call | ldI | jpV0 => simp [encode, decodeWord]
  case seImm | sneImm | ldImm | addImm | rnd => simp [encode, decodeWord]
  case seReg | sneReg | drw => simp [encode, decodeWord]
  case ldReg | orReg | andReg | xorReg | addReg | sub | shr | subn | shl => simp [encode, decodeWord, decodeClass8]
  case skp | sknp => simp [encode, decodeWord]
  case ldVxDt | ldVxK | ldDtVx | ldStVx | addI | ldF | ldB | ldMemVx | ldVxMem =>
    simp [encode, decodeWord, decodeClassF]

/-- The byte decoder reads the word of its first two bytes and returns the others. -/
theorem decode_of_decodeWord {w : Word} {i : Instr} (h : decodeWord w = .ok i) (rest : List Byte) :
    decode (highByte w :: lowByte w :: rest) = .ok (i, rest) := by
  simp [decode, h]

theorem decode_encodeBytes (i : Instr) (rest : List Byte) : decode (encodeBytes i ++ rest) = .ok (i, rest) :=
  decode_of_decodeWord (decodeWord_encode i) rest

/-! ### Encoding a decoded word -/

theorem encode_of_decodeClass8 {w : Word} {i : Instr} (hc : (fieldClass w).toNat = 8)
    (h : decodeClass8 w = .ok i) : encode i = w := by
  unfold decodeClass8 at h
  split at h <;> cases h
  all_goals
    rename_i hn
    exact packXYN_of_class_n hc hn

theorem encode_of_decodeClassF {w : Word} {i : Instr} (hc : (fieldClass w).toNat = 15)
    (h : decodeClassF w = .ok i) : encode i = w := by
  unfold decodeClassF at h
  split at h <;> cases h
  all_goals
    rename_i hk
    exact packXKK_of_class_kk hc hk

/-- Each branch of the decision tree (30_encoding.md R75) fixes the class and every bit that is no operand, so the fields it
reads pack to the word again. -/
theorem encode_of_decodeWord {w : Word} {i : Instr} (h : decodeWord w = .ok i) : encode i = w := by
  unfold decodeWord at h
  split at h
  case h_1 =>
    split_ifs at h with hcls hret <;> cases h
    · exact hcls.symm
    · exact hret.symm
  case h_2 hc | h_3 hc | h_11 hc | h_12 hc => cases h; exact packNNN_of_class hc
  case h_4 hc | h_5 hc | h_7 hc | h_8 hc | h_13 hc => cases h; exact packXKK_of_class hc
  case h_6 hc | h_10 hc =>
    split_ifs at h with hn
    cases h
    exact packXYN_of_class_n hc (congrArg BitVec.toNat hn)
  case h_9 hc => exact encode_of_decodeClass8 hc h
  case h_14 hc => cases h; exact packXYN_of_class hc
  case h_15 hc =>
    split_ifs at h with hk hk' <;> cases h
    · exact packXKK_of_class_kk hc (congrArg BitVec.toNat hk)
    · exact packXKK_of_class_kk hc (congrArg BitVec.toNat hk')
  case h_16 =>
    have hc : (fieldClass w).toNat = 15 := by
      have := (fieldClass w).isLt
      simp only [imp_false] at *
      omega
    exact encode_of_decodeClassF hc h

/-! ### The example word's instruction -/

theorem Machine.exec_ldI (nnn : Addr) (s : Machine.State) :
    Machine.exec (.ldI nnn) s = .next (Machine.State.advance { s with i := Machine.zextAddr nnn }) := rfl

/-! ### The statements of 30_encoding.md -/

/-- Settles O2: the fields of a packed word are the operands packed, and the two bytes of a word make the word again. -/
theorem decodeInvertsEncode : Obligations.DecodeInvertsEncode := by
  intro i rest _
  exact ⟨decodeWord_encode i, decode_encodeBytes i rest⟩

/-- Settles O3: along the branches of the decision tree. -/
theorem recognizedWordHasOneMeaning : Obligations.RecognizedWordHasOneMeaning :=
  fun _ _ => encode_of_decodeWord

/-- Settles O1: each word is the packing of its operands; Annn puts nnn, extended with zeros, into I. -/
theorem sampleWordsDecode : Obligations.SampleWordsDecode := by
  refine ⟨by decide, decode_encodeBytes (.ldI 0x123) [], decodeWord_encode (.ldI 0x123), fun s => ?_,
    decodeWord_encode .ret, decodeWord_encode (.jp 0xABC), decodeWord_encode (.addReg 0xA 0xB),
    decodeWord_encode (.ldVxMem 0xF), decodeWord_encode (.drw 0x0 0x1 0xF), decodeWord_encode (.skp 0x5)⟩
  exact ⟨_, Machine.exec_ldI 0x123 s, rfl⟩

end Sys2Proof

/-! PROOFS. Control flow: the jump 1nnn and the immediate skips 3xkk and 4xkk set PC and leave the rest of the state. -/

namespace Sys2Proof

open Machine

/-! ### The value of a packed word -/

theorem packNNN_toNat (c : BitVec 4) (nnn : Addr) : (packNNN c nnn).toNat = c.toNat * 0x1000 + nnn.toNat := by
  have h : (packNNN c nnn).toNat = c.toNat <<< 12 ||| nnn.toNat := BitVec.toNat_append c nnn
  rw [h, ← Nat.shiftLeft_add_eq_or_of_lt nnn.isLt, Nat.shiftLeft_eq]

theorem packXKK_toNat (c : BitVec 4) (x : RegIx) (kk : Byte) :
    (packXKK c x kk).toNat = c.toNat * 0x1000 + x.toNat * 256 + kk.toNat := by
  have hx : (c ++ x).toNat = c.toNat <<< 4 ||| x.toNat := BitVec.toNat_append c x
  have h : (packXKK c x kk).toNat = (c ++ x).toNat <<< 8 ||| kk.toNat := BitVec.toNat_append (c ++ x) kk
  rw [h, ← Nat.shiftLeft_add_eq_or_of_lt kk.isLt, hx, ← Nat.shiftLeft_add_eq_or_of_lt x.isLt]
  omega

/-- The decoder inverts the encoder, so the value of its word fixes the instruction. -/
theorem encodedAs_of_toNat_encode {i : Instr} {w : Nat} (h : (encode i).toNat = w) : EncodedAs i w := by
  have hw : BitVec.ofNat 16 w = encode i := by rw [← h, BitVec.ofNat_toNat, BitVec.setWidth_eq]
  rw [EncodedAs, hw, decodeWord_encode]

/-! ### Setting PC -/

namespace Machine

theorem zextAddr_toNat (nnn : Addr) : (zextAddr nnn).toNat = nnn.toNat := by
  have := nnn.isLt
  rw [zextAddr, BitVec.toNat_setWidth, Nat.mod_eq_of_lt (by omega)]

/-- The fetch from the last byte of memory: the second byte of the word would lie at 0x1000 (20_memory.md R57). -/
theorem fetch_at_last_address {s : State} (h : s.pc.toNat = 0xFFF) : fetch s = .error (.memoryOutOfRange 0x1000) := by
  rcases fetch_spec s with ⟨hpc, -⟩ | ⟨-, hf⟩ | ⟨hpc, -⟩
  · omega
  · exact hf
  · omega

theorem onlyPc_retireTo (s : State) (w : Word) : OnlyPc s (s.retireTo w) :=
  ⟨fun _ _ => rfl, fun _ => rfl, rfl, ⟨rfl, rfl⟩, ⟨rfl, rfl⟩, ⟨rfl, rfl⟩, ⟨rfl, rfl, rfl, rfl, rfl, rfl⟩,
    ⟨rfl, rfl, rfl, rfl, rfl⟩⟩

theorem onlyPc_skipIf (s : State) (c : Bool) : OnlyPc s (s.skipIf c) := onlyPc_retireTo s _

/-! ### The meanings of 1nnn, 3xkk and 4xkk -/

theorem exec_jp (nnn : Addr) (s : State) : exec (.jp nnn) s = .next (s.retireTo (zextAddr nnn)) := rfl

theorem exec_seImm (x : RegIx) (kk : Byte) (s : State) : exec (.seImm x kk) s = .next (s.skipIf (s.reg x == kk)) := rfl

theorem exec_sneImm (x : RegIx) (kk : Byte) (s : State) : exec (.sneImm x kk) s = .next (s.skipIf (s.reg x != kk)) := rfl

/-- A skip on equality goes to PC + 4 on equal bytes, else to PC + 2 (40_control_flow.md R100). -/
theorem retired_skipIf_beq (s : State) (a b : Byte) :
    Retired (if a = b then s.pc + 4 else s.pc + 2) (s.skipIf (a == b)) := by
  constructor
  · rw [State.skipIf_pc]; simp only [beq_iff_eq]
  · exact State.skipIf_outcome s _

/-- A skip on inequality goes to PC + 2 on equal bytes, else to PC + 4 (40_control_flow.md R100). -/
theorem retired_skipIf_bne (s : State) (a b : Byte) :
    Retired (if a = b then s.pc + 2 else s.pc + 4) (s.skipIf (a != b)) := by
  constructor
  · rw [State.skipIf_pc]; simp only [bne_iff_ne, ite_not, ne_eq]
  · exact State.skipIf_outcome s _

end Machine

/-! ### The statements of 40_control_flow.md -/

/-- Settles O27: the target is nnn extended with zeros; 0xFFF is the last address, from which no word can be fetched. -/
theorem jumpSetsPc : Obligations.JumpSetsPc := by
  intro nnn s
  refine ⟨encodedAs_of_toNat_encode (packNNN_toNat 0x1 nnn), _, exec_jp nnn s, zextAddr_toNat nnn, rfl,
    onlyPc_retireTo s _, fun hnnn => fetch_at_last_address ?_⟩
  rw [State.retireTo_pc, zextAddr_toNat, hnnn]
  rfl

/-- Settles O35: both words are packed from x and kk, and both meanings are the skip of 40_control_flow.md R100, on the
condition and on its negation. -/
theorem immediateSkips : Obligations.ImmediateSkips := by
  intro x kk s
  refine ⟨encodedAs_of_toNat_encode (packXKK_toNat 0x3 x kk), encodedAs_of_toNat_encode (packXKK_toNat 0x4 x kk), ?_, ?_⟩
  · exact ⟨_, exec_seImm x kk s, retired_skipIf_beq s _ kk, onlyPc_skipIf s _⟩
  · exact ⟨_, exec_sneImm x kk s, retired_skipIf_bne s _ kk, onlyPc_skipIf s _⟩

end Sys2Proof

/-! PROOFS. The arithmetic and logic unit: loads, moves, sums and bitwise operations that write one register, and the sum
that writes VF after it. -/

namespace Sys2Proof

open Machine

/-! ### The value of a packed word, format XYN -/

/-- Fields side by side in a word add up, each at its place. -/
theorem append_toNat {m n : Nat} (a : BitVec m) (b : BitVec n) : (a ++ b).toNat = a.toNat * 2 ^ n + b.toNat := by
  rw [BitVec.toNat_append, ← Nat.shiftLeft_add_eq_or_of_lt b.isLt, Nat.shiftLeft_eq]

theorem packXYN_toNat (c : BitVec 4) (x y : RegIx) (n : BitVec 4) :
    (packXYN c x y n).toNat = c.toNat * 0x1000 + x.toNat * 256 + y.toNat * 16 + n.toNat := by
  have h : (packXYN c x y n).toNat = (c ++ x ++ y ++ n).toNat := rfl
  rw [h, append_toNat, append_toNat, append_toNat]
  omega

/-- The words of class 8 with low nibble n (30_encoding.md R76). -/
theorem packXYN_class8_toNat (x y : RegIx) (n : BitVec 4) :
    (packXYN 0x8 x y n).toNat = 0x8000 + n.toNat + x.toNat * 256 + y.toNat * 16 := by
  have h8 : (0x8 : BitVec 4).toNat = 8 := rfl
  rw [packXYN_toNat, h8]
  omega

namespace Machine

/-! ### Writing registers and going to the next instruction -/

theorem retired_advance (s : State) : Retired (s.pc + 2) s.advance := ⟨rfl, rfl⟩

/-- New contents of V reach nothing else, so the frame is a fact about the registers alone. -/
theorem onlyRegs_advance {xs : List RegIx} {s : State} {v : Vector Byte 16}
    (h : SameRegsBut xs s { s with v := v }) : OnlyRegs xs s ({ s with v := v } : State).advance :=
  ⟨h, fun _ => rfl, rfl, ⟨rfl, rfl⟩, ⟨rfl, rfl⟩, ⟨rfl, rfl⟩, ⟨rfl, rfl, rfl, rfl, rfl, rfl⟩,
    ⟨rfl, rfl, rfl, rfl, rfl⟩⟩

theorem onlyRegs_setReg (s : State) (x : RegIx) (b : Byte) : OnlyRegs [x] s (s.setReg x b).advance :=
  onlyRegs_advance fun _ hr => State.reg_setReg_other s b (List.ne_of_not_mem_cons hr)

/-- Reading a register after a result was written to Vx and then a flag to VF: where x = F, the flag is what stays. -/
theorem State.reg_setReg_setVF (s : State) (x r : RegIx) (b flag : Byte) :
    ((s.setReg x b).setVF flag).reg r = if r = 15 then flag else if r = x then b else s.reg r := by
  rw [State.reg_setVF, State.reg_setReg]

theorem onlyRegs_setReg_setVF (s : State) (x : RegIx) (b flag : Byte) :
    OnlyRegs [x, 15] s ((s.setReg x b).setVF flag).advance :=
  onlyRegs_advance fun r hr => by
    have hx : r ≠ x := List.ne_of_not_mem_cons hr
    have hf : r ≠ 15 := List.ne_of_not_mem_cons (List.not_mem_of_not_mem_cons hr)
    exact (State.reg_setReg_setVF s x r b flag).trans (by rw [if_neg hf, if_neg hx])

theorem flagByte_carryOf (a b : Byte) : flagByte (carryOf a b) = if 255 < a.toNat + b.toNat then 1 else 0 := by
  simp only [flagByte, carryOf, decide_eq_true_eq]

/-! ### The meanings of 6xkk, 7xkk and 8xy0 to 8xy4 -/

theorem exec_ldImm (x : RegIx) (kk : Byte) (s : State) : exec (.ldImm x kk) s = .next (s.setReg x kk).advance := rfl

theorem exec_addImm (x : RegIx) (kk : Byte) (s : State) :
    exec (.addImm x kk) s = .next (s.setReg x (add8 (s.reg x) kk)).advance := rfl

theorem exec_ldReg (x y : RegIx) (s : State) : exec (.ldReg x y) s = .next (s.setReg x (s.reg y)).advance := rfl

theorem exec_orReg (x y : RegIx) (s : State) :
    exec (.orReg x y) s = .next (s.setReg x (s.reg x ||| s.reg y)).advance := rfl

theorem exec_andReg (x y : RegIx) (s : State) :
    exec (.andReg x y) s = .next (s.setReg x (s.reg x &&& s.reg y)).advance := rfl

theorem exec_xorReg (x y : RegIx) (s : State) :
    exec (.xorReg x y) s = .next (s.setReg x (s.reg x ^^^ s.reg y)).advance := rfl

theorem exec_addReg (x y : RegIx) (s : State) :
    exec (.addReg x y) s = .next
      ((s.setReg x (add8 (s.reg x) (s.reg y))).setVF (flagByte (carryOf (s.reg x) (s.reg y)))).advance := rfl

end Machine

/-! ### The statements of 41_alu.md -/

/-- Settles O37: both meanings write one byte to Vx and go on, so Vx holds it and the frame is that of the write. -/
theorem loadsAndMoves : Obligations.LoadsAndMoves := by
  intro x y kk s
  refine ⟨encodedAs_of_toNat_encode (packXKK_toNat 0x6 x kk), encodedAs_of_toNat_encode (packXYN_class8_toNat x y 0x0),
    ?_, ?_⟩
  · exact ⟨_, exec_ldImm x kk s, State.reg_setReg_same s x kk, retired_advance _, onlyRegs_setReg s x kk⟩
  · exact ⟨_, exec_ldReg x y s, State.reg_setReg_same s x _, retired_advance _, onlyRegs_setReg s x _⟩

/-- Settles O38: the byte written to Vx is the exact sum modulo 256. -/
theorem addImmediateWrapsWithoutFlag : Obligations.AddImmediateWrapsWithoutFlag := by
  intro x kk s
  refine ⟨encodedAs_of_toNat_encode (packXKK_toNat 0x7 x kk), _, exec_addImm x kk s, ?_, retired_advance _,
    onlyRegs_setReg s x _⟩
  rw [State.reg_advance, State.reg_setReg_same, add8_toNat]

/-- Settles O39: the byte written to Vx is the OR, AND or XOR of the two words, which acts on each bit alone. -/
theorem bitwiseOperations : Obligations.BitwiseOperations := by
  intro x y s
  refine ⟨encodedAs_of_toNat_encode (packXYN_class8_toNat x y 0x1),
    encodedAs_of_toNat_encode (packXYN_class8_toNat x y 0x2),
    encodedAs_of_toNat_encode (packXYN_class8_toNat x y 0x3), ?_, ?_, ?_⟩
  · refine ⟨_, exec_orReg x y s, fun k _ => ?_, retired_advance _, onlyRegs_setReg s x _⟩
    rw [State.reg_advance, State.reg_setReg_same, BitVec.getLsbD_or]
  · refine ⟨_, exec_andReg x y s, fun k _ => ?_, retired_advance _, onlyRegs_setReg s x _⟩
    rw [State.reg_advance, State.reg_setReg_same, BitVec.getLsbD_and]
  · refine ⟨_, exec_xorReg x y s, fun k _ => ?_, retired_advance _, onlyRegs_setReg s x _⟩
    rw [State.reg_advance, State.reg_setReg_same, BitVec.getLsbD_xor]

/-- Settles O40: VF is written last, so it holds the carry whatever x is; the sum stays in Vx unless x = F. -/
theorem addSetsCarry : Obligations.AddSetsCarry := by
  intro x y s
  refine ⟨encodedAs_of_toNat_encode (packXYN_class8_toNat x y 0x4), _, exec_addReg x y s, ?_, fun hx => ?_,
    retired_advance _, onlyRegs_setReg_setVF s x _ _⟩
  · rw [State.reg_advance, State.reg_setReg_setVF, if_pos rfl, flagByte_carryOf]
  · rw [State.reg_advance, State.reg_setReg_setVF, if_neg hx, if_pos rfl, add8_toNat]

end Sys2Proof

/-! PROOFS. The address register: the load Annn and the sum Fx1E write I alone. -/

namespace Sys2Proof

open Machine

/-! ### The value of a packed word of class F -/

/-- The words of class F with low byte kk (30_encoding.md R76). -/
theorem packXKK_classF_toNat (x : RegIx) (kk : Byte) :
    (packXKK 0xF x kk).toNat = 0xF000 + kk.toNat + x.toNat * 256 := by
  have hF : (0xF : BitVec 4).toNat = 15 := rfl
  rw [packXKK_toNat, hF]
  omega

namespace Machine

/-! ### Writing I and going to the next instruction -/

theorem onlyIndex_advance (s : State) (w : Word) : OnlyIndex s ({ s with i := w } : State).advance :=
  ⟨fun _ _ => rfl, fun _ => rfl, ⟨rfl, rfl⟩, ⟨rfl, rfl⟩, ⟨rfl, rfl⟩, ⟨rfl, rfl, rfl, rfl, rfl, rfl⟩,
    ⟨rfl, rfl, rfl, rfl, rfl⟩⟩

/-- All 16 bits of the sum stay: no mask to 12 bits (42_index_memory.md R151). -/
theorem addIndex_toNat (w : Word) (b : Byte) : (addIndex w b).toNat = (w.toNat + b.toNat) % 65536 :=
  BitVec.toNat_ofNat _ 16

/-! ### The meaning of Fx1E -/

theorem exec_addI (x : RegIx) (s : State) :
    exec (.addI x) s = .next ({ s with i := addIndex s.i (s.reg x) } : State).advance := rfl

end Machine

/-! ### The statements of 42_index_memory.md -/

/-- Settles O45: both meanings write one word to I and go on, so I holds it and the frame is that of the write. -/
theorem indexLoadAndAdd : Obligations.IndexLoadAndAdd := by
  intro nnn x s
  refine ⟨encodedAs_of_toNat_encode (packNNN_toNat 0xA nnn), encodedAs_of_toNat_encode (packXKK_classF_toNat x 0x1E),
    ?_, ?_⟩
  · refine ⟨_, exec_ldI nnn s, ?_, retired_advance _, onlyIndex_advance s _⟩
    rw [State.advance_i, zextAddr_toNat]
  · refine ⟨_, exec_addI x s, ?_, retired_advance _, onlyIndex_advance s _⟩
    rw [State.advance_i, addIndex_toNat]

end Sys2Proof

/-! PROOFS. The display: the clear 00E0 writes the framebuffer and DIRTY alone. -/

namespace Sys2Proof

open Machine

namespace Machine

/-! ### Writing the framebuffer and DIRTY and going to the next instruction -/

/-- A new framebuffer and a new DIRTY reach nothing else: the frame of an instruction that draws and writes no register. -/
theorem onlyScreen_advance (s : State) (fb : Framebuffer) (dirty : Bool) :
    OnlyScreen [] s ({ s with fb := fb, dirty := dirty } : State).advance :=
  ⟨fun _ _ => rfl, fun _ => rfl, rfl, ⟨rfl, rfl⟩, ⟨rfl, rfl⟩, ⟨rfl, rfl, rfl, rfl, rfl, rfl⟩,
    ⟨rfl, rfl, rfl, rfl, rfl⟩⟩

/-! ### The meaning of 00E0 -/

theorem exec_cls (s : State) : exec .cls s = .next ({ s with fb := clearFb, dirty := true } : State).advance := rfl

end Machine

/-! ### The statements of 43_display.md -/

/-- Settles O52: the meaning puts the clear framebuffer, of which every pixel is unset, in place of whatever was drawn,
sets DIRTY without looking at it, and goes on. -/
theorem clearUnsetsEveryPixel : Obligations.ClearUnsetsEveryPixel := by
  refine ⟨encodedAs_of_toNat_encode rfl, fun s => ⟨_, exec_cls s, fun y x => ?_, ?_, retired_advance _,
    onlyScreen_advance s clearFb true⟩⟩
  · rw [State.advance_fb, pixel_clearFb]
  · rw [State.advance_dirty]

end Sys2Proof

/-! PROOFS. The timers: Fx07 reads DT into a register, and Fx15 and Fx18 write one timer each. -/

namespace Sys2Proof

open Machine

namespace Machine

/-! ### Writing the timers and going to the next instruction -/

/-- New timer values reach nothing else, the beep included: that is Tick's alone (60_exceptions.md R214). -/
theorem onlyTimers_advance (s : State) (dt st : Byte) :
    OnlyTimers s ({ s with dt := dt, st := st } : State).advance :=
  ⟨fun _ _ => rfl, fun _ => rfl, rfl, ⟨rfl, rfl⟩, ⟨rfl, rfl⟩, ⟨rfl, rfl, rfl, rfl, rfl, rfl⟩,
    ⟨rfl, rfl, rfl, rfl, rfl⟩⟩

/-! ### The meanings of Fx07, Fx15 and Fx18 -/

theorem exec_ldVxDt (x : RegIx) (s : State) : exec (.ldVxDt x) s = .next (s.setReg x s.dt).advance := rfl

theorem exec_ldDtVx (x : RegIx) (s : State) :
    exec (.ldDtVx x) s = .next ({ s with dt := s.reg x } : State).advance := rfl

theorem exec_ldStVx (x : RegIx) (s : State) :
    exec (.ldStVx x) s = .next ({ s with st := s.reg x } : State).advance := rfl

end Machine

/-! ### The statements of 44_keypad_timers.md -/

/-- Settles O57: Fx07 is a register write of DT; Fx15 and Fx18 replace one timer by Vx, whatever count was left, and
keep the other. -/
theorem timerInstructions : Obligations.TimerInstructions := by
  intro x s
  refine ⟨encodedAs_of_toNat_encode (packXKK_classF_toNat x 0x07),
    encodedAs_of_toNat_encode (packXKK_classF_toNat x 0x15),
    encodedAs_of_toNat_encode (packXKK_classF_toNat x 0x18), ?_, ?_, ?_⟩
  · refine ⟨_, exec_ldVxDt x s, ?_, retired_advance _, onlyRegs_setReg s x s.dt⟩
    rw [State.reg_advance, State.reg_setReg_same]
  · refine ⟨_, exec_ldDtVx x s, ?_, ?_, retired_advance _, onlyTimers_advance s (s.reg x) s.st⟩
    · rw [State.advance_dt]
    · rw [State.advance_st]
  · refine ⟨_, exec_ldStVx x s, ?_, ?_, retired_advance _, onlyTimers_advance s s.dt (s.reg x)⟩
    · rw [State.advance_st]
    · rw [State.advance_dt]

end Sys2Proof

/-! PROOFS. The host operation Load: its answer by the length of the ROM, and the copy to 0x200. -/

namespace Sys2Proof

open Machine

namespace Machine

/-! ### The answer to a ROM, by its length -/

theorem load_refuses_empty {rom : List Byte} (h : rom.length = 0) : romWf rom = false ∧ loadResult rom = .romEmpty := by
  have hempty : romNonempty rom = false := by rw [romNonempty, h]; rfl
  simp [romWf, loadResult, hempty]

theorem load_refuses_tooLarge {rom : List Byte} (h : 3584 < rom.length) :
    romWf rom = false ∧ loadResult rom = .romTooLarge rom.length := by
  have hnonempty : romNonempty rom = true := bne_iff_ne.mpr (by omega)
  have hfits : romFits rom = false := decide_eq_false (Nat.not_le_of_gt h)
  simp [romWf, loadResult, hnonempty, hfits]

theorem load_accepts {rom : List Byte} (h1 : 1 ≤ rom.length) (h2 : rom.length ≤ 3584) :
    romWf rom = true ∧ loadResult rom = .ok := by
  have hnonempty : romNonempty rom = true := bne_iff_ne.mpr (by omega)
  have hfits : romFits rom = true := decide_eq_true h2
  simp [romWf, loadResult, hnonempty, hfits]

/-! ### The state after a Load -/

/-- Memory after a Load: the copy of an accepted ROM at 0x200, or no change. -/
def Memory.loadRom (m : Memory) (rom : List Byte) : Memory := if romWf rom then m.store 0x200 rom else m

/-- A Load inside the interface writes memory, its answer and the load window alone. -/
theorem operate_load_of_loadOpen (rom : List Byte) {s : State} (h : s.loadOpen = true) :
    operate (.load rom) s =
      .next { s with mem := s.mem.loadRom rom, loadOutcome := loadResult rom, loadOpen := false } :=
  if_pos h

theorem Memory.loadRom_of_refused (m : Memory) {rom : List Byte} (h : romWf rom = false) : m.loadRom rom = m :=
  if_neg (Bool.eq_false_iff.mp h)

theorem Memory.loadRom_of_accepted (m : Memory) {rom : List Byte} (h : romWf rom = true) :
    m.loadRom rom = m.store 0x200 rom :=
  if_pos h

end Machine

/-! ### The statements of 70_reset_and_hazards.md -/

/-- Settles O7: by the length of the ROM. The longest accepted one ends at 0xFFF, so the store at 0x200 puts every byte in
its place; the state outside memory is that of the record update. -/
theorem loadCopiesRomOrChangesNothing : Obligations.LoadCopiesRomOrChangesNothing := by
  intro rom s hopen hwf
  refine ⟨_, operate_load_of_loadOpen rom hopen, fun hempty => ?_, fun hlarge => ?_, fun hpos hfits => ?_,
    fun ⟨_, _, _, hpc, _⟩ => hpc, rfl, fun _ _ => rfl, rfl, ⟨rfl, rfl⟩, ⟨rfl, rfl⟩, ⟨rfl, rfl⟩,
    ⟨rfl, rfl, rfl, rfl, rfl, rfl⟩, rfl, rfl, rfl, rfl⟩
  · obtain ⟨hrefused, hresult⟩ := load_refuses_empty hempty
    rw [Memory.loadRom_of_refused _ hrefused]
    exact ⟨hresult, fun _ => rfl⟩
  · obtain ⟨hrefused, hresult⟩ := load_refuses_tooLarge hlarge
    rw [Memory.loadRom_of_refused _ hrefused]
    exact ⟨hresult, fun _ => rfl⟩
  · obtain ⟨haccepted, hresult⟩ := load_accepts hpos hfits
    have hend : 0x200 + rom.length ≤ Config.addrMax + 1 := Nat.add_le_add_left hfits 0x200
    rw [Memory.loadRom_of_accepted _ haccepted]
    exact ⟨hresult, fun k hk => Memory.read_store hwf 0x200 rom hend hk,
      fun a ha => Memory.read_store_other s.mem 0x200 rom ha⟩

end Sys2Proof

/-! PROOFS. The execute phase as a whole: what a completed instruction can write, which fault it can take instead, and
where PC goes. -/

namespace Sys2Proof

open Machine

namespace Machine

/-! ### The meanings of the instructions that no part above speaks of -/

theorem exec_ret (s : State) : exec .ret s = execRet s := rfl

theorem exec_call (nnn : Addr) (s : State) : exec (.call nnn) s = execCall nnn s := rfl

theorem exec_jpV0 (nnn : Addr) (s : State) :
    exec (.jpV0 nnn) s = .next (s.retireTo (indexedTarget nnn (s.reg 0))) := rfl

theorem exec_seReg (x y : RegIx) (s : State) : exec (.seReg x y) s = .next (s.skipIf (s.reg x == s.reg y)) := rfl

theorem exec_sneReg (x y : RegIx) (s : State) : exec (.sneReg x y) s = .next (s.skipIf (s.reg x != s.reg y)) := rfl

theorem exec_sub (x y : RegIx) (s : State) :
    exec (.sub x y) s = .next
      (flagThen s (flagByte (noBorrow (s.reg x) (s.reg y))) x fun t => sub8 (t.reg x) (t.reg y)) := rfl

theorem exec_shr (x y : RegIx) (s : State) :
    exec (.shr x y) s = .next (flagThen s (bitOutRight (s.reg x)) x fun t => shiftRight1 (t.reg x)) := rfl

theorem exec_subn (x y : RegIx) (s : State) :
    exec (.subn x y) s = .next
      (flagThen s (flagByte (noBorrow (s.reg y) (s.reg x))) x fun t => sub8 (t.reg y) (t.reg x)) := rfl

theorem exec_shl (x y : RegIx) (s : State) :
    exec (.shl x y) s = .next (flagThen s (bitOutLeft (s.reg x)) x fun t => shiftLeft1 (t.reg x)) := rfl

theorem exec_rnd (x : RegIx) (kk : Byte) (s : State) :
    exec (.rnd x kk) s = .next (s.setReg x (s.inp.rand &&& kk)).advance := rfl

theorem exec_ldF (x : RegIx) (s : State) :
    exec (.ldF x) s = .next ({ s with i := glyphAddress s (s.reg x) } : State).advance := rfl

theorem exec_skp (x : RegIx) (s : State) : exec (.skp x) s = .next (s.skipIf (skipsOnPressed s (s.reg x))) := rfl

theorem exec_sknp (x : RegIx) (s : State) : exec (.sknp x) s = .next (s.skipIf (skipsOnNotPressed s (s.reg x))) := rfl

theorem exec_ldVxK_waits (x : RegIx) {s : State} (h : s.inp.keyEvent = none) :
    exec (.ldVxK x) s = .next s.waitForKey := by
  simp only [exec, execLdVxK, h]

theorem exec_ldVxK_takes (x : RegIx) {s : State} {k : BitVec 4} (h : s.inp.keyEvent = some k) :
    exec (.ldVxK x) s = .next (s.setReg x (k.setWidth 8)).advance := by
  simp only [exec, execLdVxK, h]

/-- The screen, DIRTY and VF after Dxyn drew its sprite (43_display.md R172); `exec_drw` ties it to the instruction. -/
def State.drawn (s : State) (x y : RegIx) (n : BitVec 4) : State :=
  ({ s with fb := (drawBits s.fb (spriteOf s x y n)).1, dirty := true } : State).setVF
    (flagByte (drawBits s.fb (spriteOf s x y n)).2)

theorem exec_drw (x y : RegIx) (n : BitVec 4) (s : State) :
    exec (.drw x y n) s = settle s (inRange s.i n.toNat (s.drawn x y n).advance) := rfl

theorem exec_ldB (x : RegIx) (s : State) :
    exec (.ldB x) s
      = settle s (inRange s.i 3
          ({ s with mem := s.mem.store s.i.toNat (decimalDigits (s.reg x)) } : State).advance) := rfl

theorem exec_ldMemVx (x : RegIx) (s : State) :
    exec (.ldMemVx x) s
      = settle s (inRange s.i (x.toNat + 1)
          ({ s with mem := s.mem.store s.i.toNat (s.regsUpTo x) } : State).advance) := rfl

theorem exec_ldVxMem (x : RegIx) (s : State) :
    exec (.ldVxMem x) s
      = settle s (inRange s.i (x.toNat + 1)
          ({ s with v := setRegsFrom s.v 0 (s.mem.load s.i.toNat (x.toNat + 1)) } : State).advance) := rfl

/-! ### The frame of a completed instruction (10_state.md R41) -/

/-- From s the instruction wrote at most what the table of 10_state.md R41 lists for it, PC and the outcome, and t is the
state it left. -/
structure CompletedFrame (i : Instr) (s t : State) : Prop where
  reg : ∀ r : RegIx, writesReg i r = false → t.reg r = s.reg r
  index : writesIndex i = false → t.i = s.i
  sp : writesSp i = false → t.sp = s.sp
  stack : writesStack i = false → t.stack = s.stack
  mem : writesMem i = false → t.mem = s.mem
  screen : writesScreen i = false → SameScreen s t
  dt : writesDt i = false → t.dt = s.dt
  st : writesSt i = false → t.st = s.st
  status : SameStatus s t
  env : SameEnv s t

section

variable {i : Instr}

theorem completedFrame_retireTo (s : State) (w : Word) : CompletedFrame i s (s.retireTo w) :=
  ⟨fun _ _ => rfl, fun _ => rfl, fun _ => rfl, fun _ => rfl, fun _ => rfl, fun _ => ⟨rfl, rfl⟩, fun _ => rfl,
    fun _ => rfl, ⟨rfl, rfl, rfl, rfl, rfl, rfl⟩, ⟨rfl, rfl, rfl, rfl, rfl⟩⟩

theorem completedFrame_waitForKey (s : State) : CompletedFrame i s s.waitForKey :=
  { completedFrame_retireTo s s.pc with }

theorem completedFrame_index (s : State) (w : Word) (h : writesIndex i = true) :
    CompletedFrame i s ({ s with i := w } : State).advance :=
  { completedFrame_retireTo s (s.pc + 2) with index := fun h' => absurd (h.symm.trans h') nofun }

theorem completedFrame_dt (s : State) (b : Byte) (h : writesDt i = true) :
    CompletedFrame i s ({ s with dt := b } : State).advance :=
  { completedFrame_retireTo s (s.pc + 2) with dt := fun h' => absurd (h.symm.trans h') nofun }

theorem completedFrame_st (s : State) (b : Byte) (h : writesSt i = true) :
    CompletedFrame i s ({ s with st := b } : State).advance :=
  { completedFrame_retireTo s (s.pc + 2) with st := fun h' => absurd (h.symm.trans h') nofun }

theorem completedFrame_mem (s : State) (m : Memory) (h : writesMem i = true) :
    CompletedFrame i s ({ s with mem := m } : State).advance :=
  { completedFrame_retireTo s (s.pc + 2) with mem := fun h' => absurd (h.symm.trans h') nofun }

theorem completedFrame_sp (s : State) (k : Fin 17) (w : Word) (h : writesSp i = true) :
    CompletedFrame i s (({ s with sp := k } : State).retireTo w) :=
  { completedFrame_retireTo s w with sp := fun h' => absurd (h.symm.trans h') nofun }

theorem completedFrame_stack (s : State) (k : Fin 17) (stack : Vector Word 16) (w : Word) (h : writesSp i = true)
    (hstack : writesStack i = true) :
    CompletedFrame i s (({ s with stack := stack, sp := k } : State).retireTo w) :=
  { completedFrame_sp s k w h with stack := fun h' => absurd (hstack.symm.trans h') nofun }

theorem completedFrame_regs (s : State) (v : Vector Byte 16)
    (h : ∀ r : RegIx, writesReg i r = false → ({ s with v := v } : State).reg r = s.reg r) :
    CompletedFrame i s ({ s with v := v } : State).advance :=
  { completedFrame_retireTo s (s.pc + 2) with reg := h }

theorem completedFrame_screen (s : State) (fb : Framebuffer) (dirty : Bool) (h : writesScreen i = true) :
    CompletedFrame i s ({ s with fb := fb, dirty := dirty } : State).advance :=
  { completedFrame_retireTo s (s.pc + 2) with screen := fun h' => absurd (h.symm.trans h') nofun }

/-- A register outside an instruction's list is neither its x, nor VF where the instruction sets a flag. -/
theorem writesReg_eq_false {r : RegIx} (h : writesReg i r = false) :
    destReg i ≠ some r ∧ (setsFlag i = true → r ≠ 15) ∧ blockLoads i r = false := by
  simpa [writesReg, and_assoc] using h

theorem completedFrame_setReg (s : State) (x : RegIx) (b : Byte) (h : destReg i = some x) :
    CompletedFrame i s (s.setReg x b).advance :=
  completedFrame_regs s _ fun r hr => by
    have hx : r ≠ x := fun e => (writesReg_eq_false hr).1 (e ▸ h)
    exact State.reg_setReg_other s b hx

theorem completedFrame_setReg_setVF (s : State) (x : RegIx) (b flag : Byte) (h : destReg i = some x)
    (hflag : setsFlag i = true) : CompletedFrame i s ((s.setReg x b).setVF flag).advance :=
  completedFrame_regs s _ fun r hr => by
    obtain ⟨hdest, hvf, -⟩ := writesReg_eq_false hr
    have hx : r ≠ x := fun e => hdest (e ▸ h)
    exact (State.reg_setReg_setVF s x r b flag).trans (by rw [if_neg (hvf hflag), if_neg hx])

theorem completedFrame_flagThen (s : State) (flag : Byte) (x : RegIx) (result : State → Byte) (h : destReg i = some x)
    (hflag : setsFlag i = true) : CompletedFrame i s (flagThen s flag x result) :=
  completedFrame_regs s _ fun r hr => by
    obtain ⟨hdest, hvf, -⟩ := writesReg_eq_false hr
    have hx : r ≠ x := fun e => hdest (e ▸ h)
    exact (flagThen_reg s flag x result r).trans (by rw [if_neg hx, if_neg (hvf hflag)])

end

theorem completedFrame_drawn (s : State) (x y : RegIx) (n : BitVec 4) :
    CompletedFrame (.drw x y n) s (s.drawn x y n).advance :=
  { completedFrame_screen s _ true rfl with
    reg := fun r hr => (State.reg_setVF _ r _).trans (if_neg ((writesReg_eq_false hr).2.1 rfl)) }

theorem completedFrame_ldVxMem (s : State) (x : RegIx) :
    CompletedFrame (.ldVxMem x) s
      ({ s with v := setRegsFrom s.v 0 (s.mem.load s.i.toNat (x.toNat + 1)) } : State).advance :=
  completedFrame_regs s _ fun r hr => by
    have habove : x.toNat < r.toNat := by simpa [writesReg, destReg, setsFlag, blockLoads] using hr
    rw [reg_setRegsFrom_zero, dif_neg (by rw [Memory.load_length]; omega)]

/-! ### Everything an execute phase can do -/

/-- The instruction took one of its own fatal faults (60_exceptions.md R202), and nothing else happened. -/
def TakesFault (i : Instr) (s t : State) : Prop :=
  ∃ f : Fault, RaisesFault i s (faultCode f) (faultInfo f) ∧ t = s.takeFault f

/-- The outcomes of an instruction that ends in a data access. -/
theorem outcome_of_dataAccess {i : Instr} {s u : State} {len : Nat}
    (hexec : exec i s = settle s (inRange s.i len u))
    (hraises : len ≠ 0 → 0xFFF < s.i.toNat + (len - 1) →
      ∀ info : Word, info.toNat = max s.i.toNat 0x1000 → RaisesFault i s 1 info)
    (hframe : CompletedFrame i s u) :
    ∃ t, exec i s = .next t ∧ (TakesFault i s t ∨ CompletedFrame i s t) := by
  rcases settle_inRange_cases s u s.i len with ⟨-, e⟩ | ⟨⟨hlen, hrange⟩, e⟩
  · exact ⟨u, hexec.trans e, .inr hframe⟩
  · exact ⟨_, hexec.trans e, .inl ⟨.memoryOutOfRange _, hraises hlen hrange _ (toNat_faultAddress s.i), rfl⟩⟩

/-- Every instruction answers a next state, from every state: it took one of its own faults, or it completed within its
frame. -/
theorem exec_outcome (i : Instr) (s : State) :
    ∃ t, exec i s = .next t ∧ (TakesFault i s t ∨ CompletedFrame i s t) := by
  cases i with
  | cls => exact ⟨_, exec_cls s, .inr (completedFrame_screen s clearFb true rfl)⟩
  | ret =>
    rcases execRet_cases s with ⟨_, t, e, rfl⟩ | ⟨hsp, e⟩
    · exact ⟨_, e, .inr (completedFrame_sp s _ _ rfl)⟩
    · exact ⟨_, e, .inl ⟨.stackUnderflow s.pc, ⟨rfl, rfl, hsp⟩, rfl⟩⟩
  | call nnn =>
    rcases execCall_cases nnn s with ⟨_, t, e, rfl⟩ | ⟨hsp, e⟩
    · exact ⟨_, e, .inr (completedFrame_stack s _ _ _ rfl rfl)⟩
    · exact ⟨_, e, .inl ⟨.stackOverflow s.pc, ⟨rfl, rfl, hsp⟩, rfl⟩⟩
  | jp nnn => exact ⟨_, exec_jp nnn s, .inr (completedFrame_retireTo s _)⟩
  | jpV0 nnn => exact ⟨_, exec_jpV0 nnn s, .inr (completedFrame_retireTo s _)⟩
  | seImm x kk => exact ⟨_, exec_seImm x kk s, .inr (completedFrame_retireTo s _)⟩
  | sneImm x kk => exact ⟨_, exec_sneImm x kk s, .inr (completedFrame_retireTo s _)⟩
  | seReg x y => exact ⟨_, exec_seReg x y s, .inr (completedFrame_retireTo s _)⟩
  | sneReg x y => exact ⟨_, exec_sneReg x y s, .inr (completedFrame_retireTo s _)⟩
  | skp x => exact ⟨_, exec_skp x s, .inr (completedFrame_retireTo s _)⟩
  | sknp x => exact ⟨_, exec_sknp x s, .inr (completedFrame_retireTo s _)⟩
  | ldImm x kk => exact ⟨_, exec_ldImm x kk s, .inr (completedFrame_setReg s x _ rfl)⟩
  | addImm x kk => exact ⟨_, exec_addImm x kk s, .inr (completedFrame_setReg s x _ rfl)⟩
  | ldReg x y => exact ⟨_, exec_ldReg x y s, .inr (completedFrame_setReg s x _ rfl)⟩
  | orReg x y => exact ⟨_, exec_orReg x y s, .inr (completedFrame_setReg s x _ rfl)⟩
  | andReg x y => exact ⟨_, exec_andReg x y s, .inr (completedFrame_setReg s x _ rfl)⟩
  | xorReg x y => exact ⟨_, exec_xorReg x y s, .inr (completedFrame_setReg s x _ rfl)⟩
  | rnd x kk => exact ⟨_, exec_rnd x kk s, .inr (completedFrame_setReg s x _ rfl)⟩
  | ldVxDt x => exact ⟨_, exec_ldVxDt x s, .inr (completedFrame_setReg s x _ rfl)⟩
  | ldVxK x =>
    cases hk : s.inp.keyEvent with
    | none => exact ⟨_, exec_ldVxK_waits x hk, .inr (completedFrame_waitForKey s)⟩
    | some k => exact ⟨_, exec_ldVxK_takes x hk, .inr (completedFrame_setReg s x _ rfl)⟩
  | addReg x y => exact ⟨_, exec_addReg x y s, .inr (completedFrame_setReg_setVF s x _ _ rfl rfl)⟩
  | sub x y => exact ⟨_, exec_sub x y s, .inr (completedFrame_flagThen s _ x _ rfl rfl)⟩
  | shr x y => exact ⟨_, exec_shr x y s, .inr (completedFrame_flagThen s _ x _ rfl rfl)⟩
  | subn x y => exact ⟨_, exec_subn x y s, .inr (completedFrame_flagThen s _ x _ rfl rfl)⟩
  | shl x y => exact ⟨_, exec_shl x y s, .inr (completedFrame_flagThen s _ x _ rfl rfl)⟩
  | ldI nnn => exact ⟨_, exec_ldI nnn s, .inr (completedFrame_index s _ rfl)⟩
  | addI x => exact ⟨_, exec_addI x s, .inr (completedFrame_index s _ rfl)⟩
  | ldF x => exact ⟨_, exec_ldF x s, .inr (completedFrame_index s _ rfl)⟩
  | ldDtVx x => exact ⟨_, exec_ldDtVx x s, .inr (completedFrame_dt s _ rfl)⟩
  | ldStVx x => exact ⟨_, exec_ldStVx x s, .inr (completedFrame_st s _ rfl)⟩
  | drw x y n =>
    refine outcome_of_dataAccess (exec_drw x y n s) (fun hn hrange info hinfo => ⟨rfl, hinfo, ?_, hrange⟩)
      (completedFrame_drawn s x y n)
    exact fun h => hn (congrArg BitVec.toNat h)
  | ldB x =>
    exact outcome_of_dataAccess (exec_ldB x s) (fun _ hrange info hinfo => ⟨rfl, hinfo, hrange⟩)
      (completedFrame_mem s _ rfl)
  | ldMemVx x =>
    exact outcome_of_dataAccess (exec_ldMemVx x s) (fun _ hrange info hinfo => ⟨rfl, hinfo, hrange⟩)
      (completedFrame_mem s _ rfl)
  | ldVxMem x =>
    exact outcome_of_dataAccess (exec_ldVxMem x s) (fun _ hrange info hinfo => ⟨rfl, hinfo, hrange⟩)
      (completedFrame_ldVxMem s x)

/-- The same, of the state an instruction is known to answer. -/
theorem exec_cases {i : Instr} {s t : State} (h : exec i s = .next t) : TakesFault i s t ∨ CompletedFrame i s t := by
  obtain ⟨u, hu, hcases⟩ := exec_outcome i s
  rw [hu] at h
  cases h
  exact hcases

/-- A fault taken leaves the rest of the state and the environment. -/
theorem faultTaken_takeFault (s : State) (f : Fault) : FaultTaken (faultCode f) (faultInfo f) s (s.takeFault f) :=
  ⟨rfl, rfl, rfl, rfl, fun _ _ => rfl, fun _ => rfl, rfl, rfl, ⟨rfl, rfl⟩, ⟨rfl, rfl⟩, ⟨rfl, rfl⟩, ⟨rfl, rfl, rfl⟩⟩

theorem sameEnv_takeFault (s : State) (f : Fault) : SameEnv s (s.takeFault f) := ⟨rfl, rfl, rfl, rfl, rfl⟩

theorem step_outcome (s : State) : ∃ t, step s = .next t := by
  unfold step cycle
  split
  · exact ⟨_, rfl⟩
  · split
    · exact ⟨_, rfl⟩
    · rename_i w _
      unfold decodeAndExec
      split
      · rename_i i _
        obtain ⟨t, ht, -⟩ := exec_outcome i s
        rw [ht]
        exact ⟨_, rfl⟩
      · exact ⟨_, rfl⟩

/-! ### PC after an execute phase (10_state.md R25) -/

theorem indexedTarget_toNat (nnn : Addr) (b : Byte) : (indexedTarget nnn b).toNat = nnn.toNat + b.toNat := by
  have := nnn.isLt
  have := b.isLt
  rw [indexedTarget, BitVec.toNat_ofNat, Nat.mod_eq_of_lt (by omega)]

theorem skipPc_skipIf {s : State} {c : Bool} {P : Prop} (h : c = true ↔ P) : SkipPc s P (s.skipIf c).pc :=
  ⟨fun hp => if_pos (h.mpr hp), fun hp => if_neg (mt h.mp hp)⟩

theorem skipIf_pc_eq_or (s : State) (c : Bool) : (s.skipIf c).pc = s.pc + 2 ∨ (s.skipIf c).pc = s.pc + 4 := by
  cases c
  · exact .inl rfl
  · exact .inr rfl

theorem skipsOnPressed_of_le (s : State) {key : Byte} (h : key.toNat ≤ 15) :
    skipsOnPressed s key = s.inp.keyLevel.getLsbD key.toNat := if_pos h

theorem skipsOnNotPressed_of_le (s : State) {key : Byte} (h : key.toNat ≤ 15) :
    skipsOnNotPressed s key = !s.inp.keyLevel.getLsbD key.toNat := if_pos h

theorem accessPc_of_settle {s u t : State} {len : Nat} (hu : u.pc = s.pc)
    (h : settle s (inRange s.i len u.advance) = .next t) : AccessPc s len t.pc := by
  rcases settle_inRange_cases s u.advance s.i len with ⟨hrange, e⟩ | ⟨hrange, e⟩ <;> cases e.symm.trans h
  · exact ⟨fun hout => by omega, fun _ => by rw [State.advance_pc, hu]⟩
  · exact ⟨fun _ => rfl, fun hin => absurd hrange hin⟩

theorem exec_pcAfter {i : Instr} {s t : State} (h : exec i s = .next t) : PcAfter i s t.pc := by
  cases i with
  | cls | ldImm | addImm | ldReg | orReg | andReg | xorReg | addReg | sub | shr | subn | shl => cases h; rfl
  | ldI | rnd | ldVxDt | ldDtVx | ldStVx | addI | ldF => cases h; rfl
  | ret =>
    rcases execRet_cases s with ⟨hsp, t, e, rfl⟩ | ⟨hsp, e⟩ <;> cases e.symm.trans h
    · refine ⟨fun h0 => by omega, fun k hk => ?_⟩
      simp [hk]
    · exact ⟨fun _ => rfl, fun k hk => by omega⟩
  | call nnn =>
    rcases execCall_cases nnn s with ⟨hsp, t, e, rfl⟩ | ⟨hsp, e⟩ <;> cases e.symm.trans h
    · exact ⟨fun h16 => by omega, fun _ => zextAddr_toNat nnn⟩
    · exact ⟨fun _ => rfl, fun h16 => by omega⟩
  | jp nnn => cases h; exact zextAddr_toNat nnn
  | jpV0 nnn => cases h; exact indexedTarget_toNat nnn (s.reg 0)
  | seImm x kk => cases h; exact skipPc_skipIf beq_iff_eq
  | sneImm x kk => cases h; exact skipPc_skipIf bne_iff_ne
  | seReg x y => cases h; exact skipPc_skipIf beq_iff_eq
  | sneReg x y => cases h; exact skipPc_skipIf bne_iff_ne
  | skp x =>
    cases h
    refine ⟨fun hkey => skipPc_skipIf ?_, skipIf_pc_eq_or s _⟩
    rw [skipsOnPressed_of_le s hkey]
  | sknp x =>
    cases h
    refine ⟨fun hkey => skipPc_skipIf ?_, skipIf_pc_eq_or s _⟩
    rw [skipsOnNotPressed_of_le s hkey, Bool.not_eq_true']
  | ldVxK x =>
    cases hk : s.inp.keyEvent with
    | none =>
      cases (exec_ldVxK_waits x hk).symm.trans h
      exact ⟨fun _ => rfl, fun hne => absurd hk hne⟩
    | some k =>
      cases (exec_ldVxK_takes x hk).symm.trans h
      exact ⟨fun hnone => (by rw [hnone] at hk; cases hk), fun _ => rfl⟩
  | drw x y n => exact accessPc_of_settle (u := s.drawn x y n) rfl h
  | ldB x => exact accessPc_of_settle (u := { s with mem := s.mem.store s.i.toNat (decimalDigits (s.reg x)) }) rfl h
  | ldMemVx x => exact accessPc_of_settle (u := { s with mem := s.mem.store s.i.toNat (s.regsUpTo x) }) rfl h
  | ldVxMem x =>
    exact accessPc_of_settle
      (u := { s with v := setRegsFrom s.v 0 (s.mem.load s.i.toNat (x.toNat + 1)) }) rfl h

/-! ### The inputs (60_exceptions.md R212) -/

theorem settle_present (inp : Inputs) {s t : State} {r : Except Fault State} (h : settle s r = .next t) :
    settle (present inp s) (r.map (present inp)) = .next (present inp t) := by
  cases r with
  | ok u => cases h; rfl
  | error f => cases h; rfl

theorem inRange_present (inp : Inputs) (base : Word) (len : Nat) (u : State) :
    inRange base len (present inp u) = (inRange base len u).map (present inp) := by
  unfold inRange
  cases rangeFault base len with
  | none => rfl
  | some f => rfl

theorem push_present (inp : Inputs) (s : State) (w : Word) :
    push (present inp s) w = (push s w).map (present inp) := by
  rw [push, push, apply_dite (Except.map (present inp))]
  rfl

theorem pop_present (inp : Inputs) (s : State) :
    pop (present inp s) = (pop s).map fun p => (p.1, present inp p.2) := by
  rw [pop, pop, apply_dite (Except.map fun p : Word × State => (p.1, present inp p.2))]
  rfl

theorem exec_ret_present (inp : Inputs) {s t : State} (h : exec .ret s = .next t) :
    exec .ret (present inp s) = .next (present inp t) := by
  rw [exec_ret, execRet] at h ⊢
  rw [pop_present]
  generalize pop s = r at h ⊢
  cases r with
  | ok p => exact settle_present inp h
  | error f => exact settle_present inp h

theorem exec_call_present (inp : Inputs) {nnn : Addr} {s t : State} (h : exec (.call nnn) s = .next t) :
    exec (.call nnn) (present inp s) = .next (present inp t) := by
  rw [exec_call, execCall] at h ⊢
  rw [present_pc, push_present]
  generalize push s (s.pc + 2) = r at h ⊢
  cases r with
  | ok u => exact settle_present inp h
  | error f => exact settle_present inp h

theorem settle_inRange_present (inp : Inputs) {s u t : State} {base : Word} {len : Nat}
    (h : settle s (inRange base len u) = .next t) :
    settle (present inp s) (inRange base len (present inp u)) = .next (present inp t) := by
  rw [inRange_present]
  exact settle_present inp h

/-- The operations that can fault do not read the inputs; every other meaning outside the four is one update that does
not read them either. -/
theorem exec_present {i : Instr} {s t : State} (inp : Inputs) (hi : usesInputs i = false) (h : exec i s = .next t) :
    exec i (present inp s) = .next (present inp t) := by
  cases i with
  | skp | sknp | ldVxK | rnd => cases hi
  | ret => exact exec_ret_present inp h
  | call nnn => exact exec_call_present inp h
  | drw | ldB | ldMemVx | ldVxMem => exact settle_inRange_present inp h
  | cls | ldImm | addImm | ldReg | orReg | andReg | xorReg | addReg | sub | shr | subn | shl => cases h; rfl
  | jp | jpV0 | seImm | sneImm | seReg | sneReg | ldI | ldVxDt | ldDtVx | ldStVx | addI | ldF => cases h; rfl

end Machine

/-! ### The statements of 60_exceptions.md and 10_state.md on the execute phase -/

/-- Settles O18: every instruction completes or has its fault taken, and the other ends of a Step are next states. -/
theorem everyStepHasANextState : Obligations.EveryStepHasANextState := by
  intro s
  refine ⟨step_outcome s, fun i => ?_⟩
  obtain ⟨t, ht, -⟩ := exec_outcome i s
  exact ⟨t, ht⟩

/-- Settles O19: an instruction that completes leaves STATUS, so one that ends Faulted took its own fault. -/
theorem fatalFaultsArePrecise : Obligations.FatalFaultsArePrecise := by
  intro i s t hrunning h hfaulted
  rcases exec_cases h with ⟨f, hraises, rfl⟩ | hframe
  · exact ⟨hraises, faultTaken_takeFault s f, sameEnv_takeFault s f⟩
  · have hsame : t.status = s.status := hframe.status.1
    rw [hrunning, hfaulted] at hsame
    cases hsame

/-- Settles O20: along the branches of each meaning. -/
theorem pcAdvancesByTheTable : Obligations.PcAdvancesByTheTable := fun _ _ _ => exec_pcAfter

/-- Settles O21: a completed instruction keeps its frame, and a fault taken writes none of these. -/
theorem onlyTheListedInstructionsWrite : Obligations.OnlyTheListedInstructionsWrite := by
  intro i s t h
  rcases exec_cases h with ⟨f, -, rfl⟩ | hframe
  · exact ⟨fun _ _ => rfl, fun _ => rfl, fun _ => rfl, fun _ => rfl, fun _ _ => rfl, fun _ => ⟨rfl, rfl⟩, fun _ => rfl,
      fun _ => rfl, ⟨rfl, rfl, rfl⟩, sameEnv_takeFault s f⟩
  · obtain ⟨-, -, -, hdecode⟩ := hframe.status
    exact ⟨hframe.reg, hframe.index, hframe.sp, hframe.stack, fun hmem a => by rw [hframe.mem hmem], hframe.screen,
      hframe.dt, hframe.st, hdecode, hframe.env⟩

/-- Settles O22: presenting other inputs commutes with every meaning that does not use them. -/
theorem inputsAreIgnoredByOtherInstructions : Obligations.InputsAreIgnoredByOtherInstructions :=
  fun _ _ _ inp => exec_present inp

end Sys2Proof

/-! PROOFS. The invariant of every reachable state: it holds at reset, and each host operation keeps it. -/

namespace Sys2Proof

open Machine

namespace Machine

/-! ### The bounds of PC (10_state.md R40) -/

/-- At a PC from which a word can be fetched neither increment wraps. -/
theorem toNat_add_two_four {w : Word} (h : w.toNat ≤ 0xFFE) :
    (w + 2).toNat = w.toNat + 2 ∧ (w + 4).toNat = w.toNat + 4 := by
  constructor
  · rw [BitVec.toNat_add, show (2 : Word).toNat = 2 from rfl]; omega
  · rw [BitVec.toNat_add, show (4 : Word).toNat = 4 from rfl]; omega

theorem le_of_skipPc {s : State} {c : Prop} {p : Word} (hpc : s.pc.toNat ≤ 0xFFE) (h : SkipPc s c p) :
    p.toNat ≤ 0x10FE := by
  obtain ⟨h2, h4⟩ := toNat_add_two_four hpc
  by_cases hc : c
  · rw [h.1 hc]; omega
  · rw [h.2 hc]; omega

theorem le_of_accessPc {s : State} {len : Nat} {p : Word} (hpc : s.pc.toNat ≤ 0xFFE) (h : AccessPc s len p) :
    p.toNat ≤ 0x10FE := by
  obtain ⟨h2, -⟩ := toNat_add_two_four hpc
  by_cases hc : len ≠ 0 ∧ 0xFFF < s.i.toNat + (len - 1)
  · rw [h.1 hc]; omega
  · rw [h.2 hc]; omega

/-- Every live stack entry is in 2..0x1000 (10_state.md R40). -/
def LiveEntriesBounded (s : State) : Prop :=
  ∀ k : Fin 16, k.val < s.sp.val → 2 ≤ (s.stack[k]).toNat ∧ (s.stack[k]).toNat ≤ 0x1000

/-- From a PC at which a word can be fetched, and with bounded return addresses, no instruction leaves 0..0x10FE. -/
theorem le_of_pcAfter {i : Instr} {s : State} {p : Word} (hpc : s.pc.toNat ≤ 0xFFE) (hstack : LiveEntriesBounded s)
    (h : PcAfter i s p) : p.toNat ≤ 0x10FE := by
  obtain ⟨h2, h4⟩ := toNat_add_two_four hpc
  cases i with
  | cls | ldImm | addImm | ldReg | orReg | andReg | xorReg | addReg | sub | shr | subn | shl => rw [h]; omega
  | ldI | rnd | ldVxDt | ldDtVx | ldStVx | addI | ldF => rw [h]; omega
  | ret =>
    obtain ⟨hempty, hpop⟩ := h
    by_cases hsp : s.sp.val = 0
    · rw [hempty hsp]; omega
    · have hlt := s.sp.isLt
      have hk : s.sp.val = (⟨s.sp.val - 1, by omega⟩ : Fin 16).val + 1 := by simp only; omega
      have := hstack ⟨s.sp.val - 1, by omega⟩ (by simp only; omega)
      rw [hpop _ hk]; omega
  | jp nnn =>
    have := nnn.isLt
    have hp : p.toNat = nnn.toNat := h
    omega
  | call nnn =>
    obtain ⟨hfull, hroom⟩ := h
    have := nnn.isLt
    by_cases hsp : s.sp.val = 16
    · rw [hfull hsp]; omega
    · have := hroom (by omega); omega
  | jpV0 nnn =>
    have := nnn.isLt
    have := (s.reg 0).isLt
    have hp : p.toNat = nnn.toNat + (s.reg 0).toNat := h
    omega
  | seImm | sneImm | seReg | sneReg => exact le_of_skipPc hpc h
  | skp | sknp =>
    rcases h.2 with hp | hp
    · rw [hp]; omega
    · rw [hp]; omega
  | ldVxK =>
    obtain ⟨hnone, hsome⟩ := h
    by_cases hk : s.inp.keyEvent = none
    · rw [hnone hk]; omega
    · rw [hsome hk]; omega
  | drw | ldB | ldMemVx | ldVxMem => exact le_of_accessPc hpc h

/-! ### The live stack entries -/

theorem liveEntriesBounded_push {s : State} {w : Word} (h : LiveEntriesBounded s) (hw : 2 ≤ w.toNat ∧ w.toNat ≤ 0x1000)
    (hsp : s.sp.val < 16) :
    LiveEntriesBounded
      { s with stack := s.stack.set s.sp.val w hsp, sp := ⟨s.sp.val + 1, Nat.succ_lt_succ hsp⟩ } := by
  intro k hk
  simp only at hk
  simp only [Fin.getElem_fin, Vector.getElem_set]
  split
  · exact hw
  · exact h k (by omega)

theorem exec_keeps_liveEntriesBounded {i : Instr} {s t : State} (hpc : s.pc.toNat ≤ 0xFFE) (hstack : LiveEntriesBounded s)
    (h : exec i s = .next t) : LiveEntriesBounded t := by
  have of_same (hsp : t.sp = s.sp) (hst : t.stack = s.stack) : LiveEntriesBounded t := by
    rw [LiveEntriesBounded, hsp, hst]; exact hstack
  rcases exec_cases h with ⟨f, -, rfl⟩ | hframe
  · exact of_same rfl rfl
  cases i with
  | ret =>
    rcases execRet_cases s with ⟨hsp, t, e, rfl⟩ | ⟨hsp, e⟩ <;> cases e.symm.trans h
    · exact fun k hk => hstack k (Nat.lt_of_lt_pred hk)
    · exact of_same rfl rfl
  | call nnn =>
    rcases execCall_cases nnn s with ⟨hsp, t, e, rfl⟩ | ⟨hsp, e⟩ <;> cases e.symm.trans h
    · obtain ⟨h2, -⟩ := toNat_add_two_four hpc
      exact liveEntriesBounded_push (w := s.pc + 2) hstack (by omega) hsp
    · exact of_same rfl rfl
  | _ => exact of_same (hframe.sp rfl) (hframe.stack rfl)

/-! ### The canonical form of memory -/

theorem inRange_store_wf {s u t : State} {base : Word} {bs : List Byte} (hmem : s.mem.wf = true)
    (hu : u.mem = s.mem.store base.toNat bs) (h : settle s (inRange base bs.length u) = .next t) :
    t.mem.wf = true := by
  rcases settle_inRange_cases s u base bs.length with ⟨hrange, e⟩ | ⟨-, e⟩ <;> cases e.symm.trans h
  · rw [hu]
    rcases hrange with hlen | hrange
    · rw [List.length_eq_zero_iff.mp hlen]; exact hmem
    · exact Memory.store_wf hmem _ _ (by unfold Config.addrMax; omega)
  · exact hmem

theorem exec_keeps_mem_wf {i : Instr} {s t : State} (hmem : s.mem.wf = true) (h : exec i s = .next t) :
    t.mem.wf = true := by
  have of_same (e : t.mem = s.mem) : t.mem.wf = true := by rw [e]; exact hmem
  rcases exec_cases h with ⟨f, -, rfl⟩ | hframe
  · exact of_same rfl
  cases i with
  | ldB x => exact inRange_store_wf (bs := decimalDigits (s.reg x)) hmem rfl h
  | ldMemVx x =>
    rw [exec_ldMemVx, ← State.regsUpTo_length s x] at h
    exact inRange_store_wf hmem rfl h
  | _ => exact of_same (hframe.mem rfl)

/-! ### The invariant -/

theorem machineInv_takeFault {s : State} (hinv : MachineInv s) (f : Fault) : MachineInv (s.takeFault f) :=
  { hinv with faulted := fun _ => faultCode_range f, running := nofun }

theorem machineInv_takeDecodeFault {s : State} (hinv : MachineInv s) (hpc : s.pc.toNat ≤ 0xFFE) (w : Word) :
    MachineInv (s.takeDecodeFault w) :=
  { hinv with
    pc := by rw [State.takeDecodeFault_pc, (toNat_add_two_four hpc).1]; omega
    noDecodeFault := nofun }

theorem machineInv_endStep {s : State} (hinv : MachineInv s) : MachineInv s.endStep := { hinv with }

theorem exec_keeps_machineInv {i : Instr} {s t : State} (hinv : MachineInv s) (hpc : s.pc.toNat ≤ 0xFFE)
    (h : exec i s = .next t) : MachineInv t := by
  rcases exec_cases h with ⟨f, -, rfl⟩ | hframe
  · exact machineInv_takeFault hinv f
  obtain ⟨hstatus, hcause, hinfo, hdf, hdfword, hdfpc⟩ := hframe.status
  refine ⟨exec_keeps_mem_wf hinv.mem h, le_of_pcAfter hpc hinv.stack (exec_pcAfter h),
    exec_keeps_liveEntriesBounded hpc hinv.stack h, ?_, ?_, ?_⟩
  · rw [hstatus, hcause]; exact hinv.faulted
  · rw [hstatus, hcause, hinfo]; exact hinv.running
  · rw [hdf, hdfword, hdfpc]; exact hinv.noDecodeFault

/-- A word is fetched only from a PC at which both its bytes exist. -/
theorem pc_le_of_fetch {s : State} {w : Word} (h : fetch s = .ok w) : s.pc.toNat ≤ 0xFFE := by
  rcases fetch_spec s with ⟨hpc, -⟩ | ⟨-, e⟩ | ⟨-, e⟩
  · exact hpc
  · cases e.symm.trans h
  · cases e.symm.trans h

theorem step_keeps_machineInv {s t : State} (hinv : MachineInv s) (h : step s = .next t) : MachineInv t := by
  rcases step_cases h with ⟨-, rfl⟩ | ⟨-, f, -, rfl⟩ | ⟨-, w, e, hfetch, -, rfl⟩ | ⟨-, w, i, u, hfetch, -, hexec, rfl⟩
  · exact { hinv with }
  · exact machineInv_endStep (machineInv_takeFault hinv f)
  · exact machineInv_endStep (machineInv_takeDecodeFault hinv (pc_le_of_fetch hfetch) w)
  · exact machineInv_endStep (exec_keeps_machineInv hinv (pc_le_of_fetch hfetch) hexec)

theorem machineInv_reset : MachineInv State.reset :=
  ⟨State.reset_mem_wf, by decide, nofun, nofun, fun _ => ⟨rfl, rfl⟩, fun _ => ⟨rfl, rfl⟩⟩

theorem loadRom_wf {m : Memory} (h : m.wf = true) (rom : List Byte) : (m.loadRom rom).wf = true := by
  unfold Memory.loadRom
  split
  · rename_i hrom
    have hlen : rom.length ≤ 3584 := of_decide_eq_true (Bool.and_eq_true_iff.mp hrom).2
    exact Memory.store_wf h _ _ (Nat.add_le_add_left hlen 0x200)
  · exact h

theorem operate_keeps_machineInv {op : HostOp} {s t : State} (hinv : MachineInv s) (h : operate op s = .next t) :
    MachineInv t := by
  cases op with
  | reset => cases h; exact { machineInv_reset with }
  | load rom =>
    cases hopen : s.loadOpen with
    | true =>
      cases (operate_load_of_loadOpen rom hopen).symm.trans h
      exact { hinv with mem := loadRom_wf hinv.mem rom }
    | false => cases (if_neg (by simp [hopen])).symm.trans h
  | step inp => exact step_keeps_machineInv (s := present inp s) { hinv with } h
  | tick => cases h; exact { hinv with }
  | consumeFrame => cases h; exact { hinv with }

end Machine

/-! ### The statements of 10_state.md on the invariant -/

/-- Settles O24: memory lists nothing, no entry is live, and every register has its reset value. -/
theorem resetMeetsTheInvariant : Obligations.ResetMeetsTheInvariant := machineInv_reset

/-- Settles O25: along everything a Step can do; a word is fetched only from a PC up to 0xFFE, which bounds the next PC and
the return address a call pushes. -/
theorem stepKeepsTheInvariant : Obligations.StepKeepsTheInvariant := fun _ _ => step_keeps_machineInv

/-- Settles O26: Reset gives the reset state, Load stores a ROM that ends at or below 0xFFF, and the others write nothing
the invariant speaks of. -/
theorem hostOperationsKeepTheInvariant : Obligations.HostOperationsKeepTheInvariant :=
  fun _ _ _ => operate_keeps_machineInv

end Sys2Proof

/-! PROOFS. The decoder and the opcode table: a row selects exactly the words its own instructions encode. -/

namespace Sys2Proof

/-! ### A word is packed from its fields, when a mask of it is known (30_encoding.md R72) -/

theorem packNNN_of_mask {w : Word} {c : BitVec 4} (h : w &&& 0xF000 = packNNN c 0) : packNNN c (fieldNNN w) = w := by
  have hmask := packNNN_mask (fieldClass w) (fieldNNN w)
  rw [packNNN_fields, h] at hmask
  have hc : c = fieldClass w := by simpa using congrArg fieldClass hmask
  rw [hc, packNNN_fields]

theorem packXKK_of_mask_class {w : Word} {c : BitVec 4} (h : w &&& 0xF000 = packXKK c 0 0) :
    packXKK c (fieldX w) (fieldKK w) = w := by
  have hmask := packXKK_mask_class (fieldClass w) (fieldX w) (fieldKK w)
  rw [packXKK_fields, h] at hmask
  have hc : c = fieldClass w := by simpa using congrArg fieldClass hmask
  rw [hc, packXKK_fields]

theorem packXKK_of_mask_kk {w : Word} {c : BitVec 4} {kk : Byte} (h : w &&& 0xF0FF = packXKK c 0 kk) :
    packXKK c (fieldX w) kk = w := by
  have hmask := packXKK_mask_kk (fieldClass w) (fieldX w) (fieldKK w)
  rw [packXKK_fields, h] at hmask
  have hc : c = fieldClass w := by simpa using congrArg fieldClass hmask
  have hkk : kk = fieldKK w := by simpa using congrArg fieldKK hmask
  rw [hc, hkk, packXKK_fields]

theorem packXYN_of_mask_class {w : Word} {c : BitVec 4} (h : w &&& 0xF000 = packXYN c 0 0 0) :
    packXYN c (fieldX w) (fieldY w) (fieldN w) = w := by
  have hmask := packXYN_mask_class (fieldClass w) (fieldX w) (fieldY w) (fieldN w)
  rw [packXYN_fields, h] at hmask
  have hc : c = fieldClass w := by simpa using congrArg fieldClass hmask
  rw [hc, packXYN_fields]

theorem packXYN_of_mask_n {w : Word} {c n : BitVec 4} (h : w &&& 0xF00F = packXYN c 0 0 n) :
    packXYN c (fieldX w) (fieldY w) n = w := by
  have hmask := packXYN_mask_n (fieldClass w) (fieldX w) (fieldY w) (fieldN w)
  rw [packXYN_fields, h] at hmask
  have hc : c = fieldClass w := by simpa using congrArg fieldClass hmask
  have hn : n = fieldN w := by simpa using congrArg fieldN hmask
  rw [hc, hn, packXYN_fields]

/-! ### The rows and their instructions -/

/-- The row of an instruction in the opcode table. -/
def rowOf (i : Instr) : Word × Word := (rowMask i, rowMatch i)

/-- One instruction for each row, in the order of 30_encoding.md R76. -/
def rowInstrs : List Instr :=
  [.cls, .ret, .jp 0, .call 0, .seImm 0 0, .sneImm 0 0, .seReg 0 0, .ldImm 0 0, .addImm 0 0, .ldReg 0 0, .orReg 0 0,
    .andReg 0 0, .xorReg 0 0, .addReg 0 0, .sub 0 0, .shr 0 0, .subn 0 0, .shl 0 0, .sneReg 0 0, .ldI 0, .jpV0 0,
    .rnd 0 0, .drw 0 0 0, .skp 0, .sknp 0, .ldVxDt 0, .ldVxK 0, .ldDtVx 0, .ldStVx 0, .addI 0, .ldF 0, .ldB 0,
    .ldMemVx 0, .ldVxMem 0]

theorem opcodeRows_eq : opcodeRows = rowInstrs.map rowOf := rfl

theorem encode_selects_rowOf (i : Instr) : Laws.EncodingMatchesRow.Statement i := by
  cases i with
  | cls => exact Laws.EncodingMatchesRow.cls
  | ret => exact Laws.EncodingMatchesRow.ret
  | jp nnn => exact Laws.EncodingMatchesRow.jp nnn
  | call nnn => exact Laws.EncodingMatchesRow.call nnn
  | seImm x kk => exact Laws.EncodingMatchesRow.seImm x kk
  | sneImm x kk => exact Laws.EncodingMatchesRow.sneImm x kk
  | seReg x y => exact Laws.EncodingMatchesRow.seReg x y
  | ldImm x kk => exact Laws.EncodingMatchesRow.ldImm x kk
  | addImm x kk => exact Laws.EncodingMatchesRow.addImm x kk
  | ldReg x y => exact Laws.EncodingMatchesRow.ldReg x y
  | orReg x y => exact Laws.EncodingMatchesRow.orReg x y
  | andReg x y => exact Laws.EncodingMatchesRow.andReg x y
  | xorReg x y => exact Laws.EncodingMatchesRow.xorReg x y
  | addReg x y => exact Laws.EncodingMatchesRow.addReg x y
  | sub x y => exact Laws.EncodingMatchesRow.sub x y
  | shr x y => exact Laws.EncodingMatchesRow.shr x y
  | subn x y => exact Laws.EncodingMatchesRow.subn x y
  | shl x y => exact Laws.EncodingMatchesRow.shl x y
  | sneReg x y => exact Laws.EncodingMatchesRow.sneReg x y
  | ldI nnn => exact Laws.EncodingMatchesRow.ldI nnn
  | jpV0 nnn => exact Laws.EncodingMatchesRow.jpV0 nnn
  | rnd x kk => exact Laws.EncodingMatchesRow.rnd x kk
  | drw x y n => exact Laws.EncodingMatchesRow.drw x y n
  | skp x => exact Laws.EncodingMatchesRow.skp x
  | sknp x => exact Laws.EncodingMatchesRow.sknp x
  | ldVxDt x => exact Laws.EncodingMatchesRow.ldVxDt x
  | ldVxK x => exact Laws.EncodingMatchesRow.ldVxK x
  | ldDtVx x => exact Laws.EncodingMatchesRow.ldDtVx x
  | ldStVx x => exact Laws.EncodingMatchesRow.ldStVx x
  | addI x => exact Laws.EncodingMatchesRow.addI x
  | ldF x => exact Laws.EncodingMatchesRow.ldF x
  | ldB x => exact Laws.EncodingMatchesRow.ldB x
  | ldMemVx x => exact Laws.EncodingMatchesRow.ldMemVx x
  | ldVxMem x => exact Laws.EncodingMatchesRow.ldVxMem x

/-- A word that the row of i selects is the word of an instruction of the same row: i with the word's own fields. -/
theorem exists_encode_of_selects {i : Instr} {w : Word} (h : w &&& rowMask i = rowMatch i) :
    ∃ j, encode j = w ∧ rowOf j = rowOf i := by
  have hall : w &&& 0xFFFF = w := BitVec.and_allOnes
  cases i with
  | cls => exact ⟨.cls, h.symm.trans hall, rfl⟩
  | ret => exact ⟨.ret, h.symm.trans hall, rfl⟩
  | jp nnn => exact ⟨.jp (fieldNNN w), packNNN_of_mask h, rfl⟩
  | call nnn => exact ⟨.call (fieldNNN w), packNNN_of_mask h, rfl⟩
  | ldI nnn => exact ⟨.ldI (fieldNNN w), packNNN_of_mask h, rfl⟩
  | jpV0 nnn => exact ⟨.jpV0 (fieldNNN w), packNNN_of_mask h, rfl⟩
  | seImm x kk => exact ⟨.seImm (fieldX w) (fieldKK w), packXKK_of_mask_class h, rfl⟩
  | sneImm x kk => exact ⟨.sneImm (fieldX w) (fieldKK w), packXKK_of_mask_class h, rfl⟩
  | ldImm x kk => exact ⟨.ldImm (fieldX w) (fieldKK w), packXKK_of_mask_class h, rfl⟩
  | addImm x kk => exact ⟨.addImm (fieldX w) (fieldKK w), packXKK_of_mask_class h, rfl⟩
  | rnd x kk => exact ⟨.rnd (fieldX w) (fieldKK w), packXKK_of_mask_class h, rfl⟩
  | drw x y n => exact ⟨.drw (fieldX w) (fieldY w) (fieldN w), packXYN_of_mask_class h, rfl⟩
  | seReg x y => exact ⟨.seReg (fieldX w) (fieldY w), packXYN_of_mask_n h, rfl⟩
  | ldReg x y => exact ⟨.ldReg (fieldX w) (fieldY w), packXYN_of_mask_n h, rfl⟩
  | orReg x y => exact ⟨.orReg (fieldX w) (fieldY w), packXYN_of_mask_n h, rfl⟩
  | andReg x y => exact ⟨.andReg (fieldX w) (fieldY w), packXYN_of_mask_n h, rfl⟩
  | xorReg x y => exact ⟨.xorReg (fieldX w) (fieldY w), packXYN_of_mask_n h, rfl⟩
  | addReg x y => exact ⟨.addReg (fieldX w) (fieldY w), packXYN_of_mask_n h, rfl⟩
  | sub x y => exact ⟨.sub (fieldX w) (fieldY w), packXYN_of_mask_n h, rfl⟩
  | shr x y => exact ⟨.shr (fieldX w) (fieldY w), packXYN_of_mask_n h, rfl⟩
  | subn x y => exact ⟨.subn (fieldX w) (fieldY w), packXYN_of_mask_n h, rfl⟩
  | shl x y => exact ⟨.shl (fieldX w) (fieldY w), packXYN_of_mask_n h, rfl⟩
  | sneReg x y => exact ⟨.sneReg (fieldX w) (fieldY w), packXYN_of_mask_n h, rfl⟩
  | skp x => exact ⟨.skp (fieldX w), packXKK_of_mask_kk h, rfl⟩
  | sknp x => exact ⟨.sknp (fieldX w), packXKK_of_mask_kk h, rfl⟩
  | ldVxDt x => exact ⟨.ldVxDt (fieldX w), packXKK_of_mask_kk h, rfl⟩
  | ldVxK x => exact ⟨.ldVxK (fieldX w), packXKK_of_mask_kk h, rfl⟩
  | ldDtVx x => exact ⟨.ldDtVx (fieldX w), packXKK_of_mask_kk h, rfl⟩
  | ldStVx x => exact ⟨.ldStVx (fieldX w), packXKK_of_mask_kk h, rfl⟩
  | addI x => exact ⟨.addI (fieldX w), packXKK_of_mask_kk h, rfl⟩
  | ldF x => exact ⟨.ldF (fieldX w), packXKK_of_mask_kk h, rfl⟩
  | ldB x => exact ⟨.ldB (fieldX w), packXKK_of_mask_kk h, rfl⟩
  | ldMemVx x => exact ⟨.ldMemVx (fieldX w), packXKK_of_mask_kk h, rfl⟩
  | ldVxMem x => exact ⟨.ldVxMem (fieldX w), packXKK_of_mask_kk h, rfl⟩

/-! ### Selecting a row and decoding -/

/-- A word that decodes selects the row of its instruction. -/
theorem rowSelects_of_decodeWord {w : Word} {i : Instr} (h : decodeWord w = .ok i) :
    rowSelects (rowOf i) w = true ∧ rowOf i ∈ opcodeRows := by
  obtain ⟨hmask, hrow⟩ := encode_selects_rowOf i
  rw [encode_of_decodeWord h] at hmask
  exact ⟨beq_iff_eq.mpr hmask, hrow⟩

/-- A word that selects a row decodes to an instruction of that row. -/
theorem decodeWord_of_rowSelects {w : Word} {row : Word × Word} (hrow : row ∈ opcodeRows)
    (h : rowSelects row w = true) : ∃ j, decodeWord w = .ok j ∧ rowOf j = row := by
  rw [opcodeRows_eq] at hrow
  obtain ⟨i, -, rfl⟩ := List.exists_of_mem_map hrow
  obtain ⟨j, hj, hrowj⟩ := exists_encode_of_selects (beq_iff_eq.mp h)
  exact ⟨j, hj ▸ decodeWord_encode j, hrowj⟩

/-- The decoder refuses a word by its own name. -/
theorem eq_unrecognized_of_decodeWord {w : Word} {e : DecodeError} (h : decodeWord w = .error e) :
    e = .unrecognized w := by
  unfold decodeWord decodeClass8 decodeClassF at h
  repeat' split at h
  all_goals cases h
  all_goals rfl

theorem decodeWord_eq_error_iff (w : Word) :
    decodeWord w = .error (.unrecognized w) ↔ ∀ row ∈ opcodeRows, rowSelects row w = false := by
  constructor
  · intro herr row hrow
    by_contra hsel
    obtain ⟨j, hj, -⟩ := decodeWord_of_rowSelects hrow (Bool.eq_true_of_not_eq_false hsel)
    cases herr.symm.trans hj
  · intro hnone
    cases h : decodeWord w with
    | ok i =>
      obtain ⟨hsel, hrow⟩ := rowSelects_of_decodeWord h
      cases (hnone _ hrow).symm.trans hsel
    | error e => rw [eq_unrecognized_of_decodeWord h]

/-! ### The statements of 30_encoding.md on the opcode table -/

/-- Settles O4: the word of an instruction matches its row, and a word that matches a row is a word of an instruction. -/
theorem decoderFollowsOpcodeTable : Obligations.DecoderFollowsOpcodeTable :=
  fun w => ⟨fun _ h => rowSelects_of_decodeWord h, decodeWord_eq_error_iff w⟩

/-- Settles O5: each row a word selects is the row of the one instruction the word decodes to. -/
theorem noWordSelectsTwoRows : Obligations.NoWordSelectsTwoRows := by
  intro w row hrow row' hrow' hsel hsel'
  obtain ⟨j, hj, rfl⟩ := decodeWord_of_rowSelects hrow hsel
  obtain ⟨j', hj', rfl⟩ := decodeWord_of_rowSelects hrow' hsel'
  cases hj.symm.trans hj'
  rfl

end Sys2Proof

/-! PROOFS. The host operations: Reset, the load window, Tick, ConsumeFrame, and the timers along a run. -/

namespace Sys2Proof

open Machine

namespace Machine

/-! ### Reset and the load window -/

theorem atReset_hostReset (s : State) : AtReset (hostReset s) := by
  refine ⟨unlisted_eq, fun r => ?_, rfl, rfl, rfl, fun k => ?_, rfl, rfl, pixel_clearFb, rfl, rfl, rfl, rfl, rfl, rfl, rfl⟩
  · exact Vector.getElem_replicate r.isLt
  · exact Vector.getElem_replicate k.isLt

theorem operate_load_of_closed (rom : List Byte) {s : State} (h : s.loadOpen = false) :
    operate (.load rom) s = .refused .loadOutsideInterface :=
  if_neg (Bool.eq_false_iff.mp h)

theorem step_closes_loadOpen {s t : State} (h : step s = .next t) : t.loadOpen = false := by
  rcases step_cases h with ⟨-, rfl⟩ | ⟨-, f, -, rfl⟩ | ⟨-, w, e, -, -, rfl⟩ | ⟨-, w, i, u, -, -, -, rfl⟩
  · exact State.endStep_loadOpen _
  · exact State.endStep_loadOpen _
  · exact State.endStep_loadOpen _
  · exact State.endStep_loadOpen _

/-- A Load that answers a next state was inside the interface. -/
theorem operate_load_cases {rom : List Byte} {s t : State} (h : operate (.load rom) s = .next t) :
    s.loadOpen = true
    ∧ t = { s with mem := s.mem.loadRom rom, loadOutcome := loadResult rom, loadOpen := false } := by
  cases hopen : s.loadOpen with
  | true =>
    cases (operate_load_of_loadOpen rom hopen).symm.trans h
    exact ⟨rfl, rfl⟩
  | false => cases (operate_load_of_closed rom hopen).symm.trans h

/-- The first operation of a run has a next state, from which the rest runs. -/
theorem operateAll_cons {op : HostOp} {ops : List HostOp} {s t : State} (h : operateAll (op :: ops) s = .next t) :
    ∃ m, operate op s = .next m ∧ operateAll ops m = .next t := by
  unfold operateAll at h
  split at h
  · rename_i m hm; exact ⟨m, hm, h⟩
  · cases h
  · cases h

/-- Ticks and ConsumeFrames leave the load window. -/
theorem operateAll_keeps_loadOpen {ops : List HostOp} {s t : State} (hops : ∀ op ∈ ops, op = .tick ∨ op = .consumeFrame)
    (h : operateAll ops s = .next t) : t.loadOpen = s.loadOpen := by
  induction ops generalizing s with
  | nil => cases h; rfl
  | cons op ops ih =>
    obtain ⟨m, hm, hrest⟩ := operateAll_cons h
    rw [ih (fun o ho => hops o (List.mem_cons_of_mem _ ho)) hrest]
    rcases hops op List.mem_cons_self with rfl | rfl
    · cases hm; rfl
    · cases hm; rfl

/-! ### Ticks -/

theorem countDown_toNat (b : Byte) : (countDown b).toNat = b.toNat - 1 := by
  unfold countDown
  split
  · rename_i h; rw [h]; rfl
  · rename_i h
    have hpos : b.toNat ≠ 0 := fun h0 => h (BitVec.eq_of_toNat_eq h0)
    have := b.isLt
    rw [BitVec.toNat_sub, show (1 : Byte).toNat = 1 from rfl]
    omega

theorem ticks_timers (n : Nat) (s : State) :
    (ticks n s).dt.toNat = s.dt.toNat - n ∧ (ticks n s).st.toNat = s.st.toNat - n := by
  induction n generalizing s with
  | zero => exact ⟨rfl, rfl⟩
  | succ n ih =>
    obtain ⟨hdt, hst⟩ := ih (tick s)
    rw [tick_dt, countDown_toNat] at hdt
    rw [tick_st, countDown_toNat] at hst
    constructor
    · rw [ticks, hdt]; omega
    · rw [ticks, hst]; omega

/-- Ticks write the timers and the beep alone. -/
theorem ticks_eq (n : Nat) (s : State) :
    ticks n s = { s with dt := (ticks n s).dt, st := (ticks n s).st, beep := (ticks n s).beep } := by
  induction n generalizing s with
  | zero => rfl
  | succ n ih => exact ih (tick s)

/-! ### Steps and runs that leave a timer alone -/

theorem executes_of_decoded {s : State} {w : Word} {i : Instr} (hrun : s.status = .running) (hfetch : fetch s = .ok w)
    (hdec : decodeWord w = .ok i) : executes s = some i := by
  simp only [executes, hrun, hfetch, hdec]

/-- A Step executes an instruction, or leaves the call stack and the timers. -/
theorem step_executes_cases {s t : State} (h : step s = .next t) :
    (∃ i u, executes s = some i ∧ exec i s = .next u ∧ t = u.endStep)
    ∨ (executes s = none ∧ SameStack s t ∧ SameTimers s t) := by
  rcases step_cases h with ⟨hs, rfl⟩ | ⟨hs, f, hf, rfl⟩ | ⟨hs, w, e, hf, he, rfl⟩ | ⟨hs, w, i, u, hf, hi, hu, rfl⟩
  · exact .inr ⟨by simp only [executes, hs], ⟨rfl, rfl⟩, ⟨rfl, rfl⟩⟩
  · exact .inr ⟨by simp only [executes, hs, hf], ⟨rfl, rfl⟩, ⟨rfl, rfl⟩⟩
  · exact .inr ⟨by simp only [executes, hs, hf, he], ⟨rfl, rfl⟩, ⟨rfl, rfl⟩⟩
  · exact .inl ⟨i, u, executes_of_decoded hs hf hi, hu, rfl⟩

/-- Executing an instruction that does not write a timer leaves it, and so does a Step that executes none. -/
theorem step_keeps_timers {s t : State} (h : step s = .next t) :
    ((∀ i, executes s = some i → writesDt i = false) → t.dt = s.dt)
    ∧ ((∀ i, executes s = some i → writesSt i = false) → t.st = s.st) := by
  rcases step_executes_cases h with ⟨i, u, hi, hu, rfl⟩ | ⟨-, -, hdt, hst⟩
  · rcases exec_cases hu with ⟨f, -, rfl⟩ | hframe
    · exact ⟨fun _ => rfl, fun _ => rfl⟩
    · exact ⟨fun hw => hframe.dt (hw i hi), fun hw => hframe.st (hw i hi)⟩
  · exact ⟨fun _ => hdt, fun _ => hst⟩

/-- The operation is no Step that executes an instruction of the kind `writes`: what `NoWrite` asks of each. -/
def OperatesWithout (writes : Instr → Bool) (op : HostOp) (s : State) : Prop :=
  ∀ inp, op = .step inp → ∀ i, executes (present inp s) = some i → writes i = false

theorem operate_counts_timers {op : HostOp} {s m : State} (hreset : op ≠ .reset) (h : operate op s = .next m) :
    (OperatesWithout writesDt op s → m.dt.toNat = s.dt.toNat - tickCount [op])
    ∧ (OperatesWithout writesSt op s → m.st.toNat = s.st.toNat - tickCount [op]) := by
  cases op with
  | reset => exact absurd rfl hreset
  | load rom => rw [(operate_load_cases h).2]; exact ⟨fun _ => rfl, fun _ => rfl⟩
  | step inp =>
    obtain ⟨hdt, hst⟩ := step_keeps_timers (s := present inp s) h
    exact ⟨fun hw => congrArg BitVec.toNat (hdt (hw inp rfl)), fun hw => congrArg BitVec.toNat (hst (hw inp rfl))⟩
  | tick => cases h; exact ⟨fun _ => countDown_toNat s.dt, fun _ => countDown_toNat s.st⟩
  | consumeFrame => cases h; exact ⟨fun _ => rfl, fun _ => rfl⟩

theorem tickCount_cons (op : HostOp) (ops : List HostOp) : tickCount (op :: ops) = tickCount [op] + tickCount ops := by
  cases op with
  | tick => exact Nat.add_comm _ _
  | reset | load | step | consumeFrame => exact (Nat.zero_add _).symm

/-- A value that each operation of a kind of run counts down by its Ticks is counted down by all Ticks of the run. -/
theorem counts_ticks_of_operate {writes : Instr → Bool} {timer : State → Byte}
    (hop : ∀ {op : HostOp} {s m : State}, op ≠ .reset → operate op s = .next m → OperatesWithout writes op s →
      (timer m).toNat = (timer s).toNat - tickCount [op])
    {ops : List HostOp} {s t : State} (hno : NoWrite writes ops s) (h : operateAll ops s = .next t) :
    (timer t).toNat = (timer s).toNat - tickCount ops := by
  induction ops generalizing s with
  | nil => cases h; rfl
  | cons op ops ih =>
    obtain ⟨m, hm, hrest⟩ := operateAll_cons h
    obtain ⟨hreset, hwrites, hnext⟩ := hno
    rw [ih (hnext m hm) hrest, hop hreset hm hwrites, tickCount_cons op ops]
    omega

end Machine

/-! ### The statements of 60_exceptions.md and 70_reset_and_hazards.md on the host operations -/

/-- Settles O6: Reset puts the reset state in place, but for the inputs and the count of Steps, which have no reset value. -/
theorem resetGivesResetState : Obligations.ResetGivesResetState :=
  ⟨atReset_hostReset State.reset, fun s => ⟨_, rfl, atReset_hostReset s, rfl⟩⟩

/-- Settles O8: each end of a Step and each answer of a Load closes the window, and only Reset opens it. -/
theorem loadOnlyOnceAfterReset : Obligations.LoadOnlyOnceAfterReset := by
  refine ⟨fun rom _ => operate_load_of_closed rom, fun _ _ _ => step_closes_loadOpen, fun rom s t h => ?_,
    fun ops s t hops h => ?_⟩
  · rw [(operate_load_cases h).2]
  · obtain ⟨m, hm, hrest⟩ := operateAll_cons h
    cases hm
    exact operateAll_keeps_loadOpen hops hrest

/-- Settles O9: one decrement toward zero is a truncated subtraction, and the beep is the test itself. -/
theorem tickDecrementsNonzeroTimers : Obligations.TickDecrementsNonzeroTimers := by
  intro s
  exact ⟨_, rfl, countDown_toNat s.dt, countDown_toNat s.st, decide_eq_true_iff, fun _ _ => rfl, fun _ => rfl, rfl, rfl,
    ⟨rfl, rfl⟩, ⟨rfl, rfl⟩, ⟨rfl, rfl, rfl, rfl, rfl, rfl⟩, rfl, rfl, rfl, rfl, rfl⟩

/-- Settles O10: by induction on the number of Ticks. -/
theorem repeatedTicksStopAtZero : Obligations.RepeatedTicksStopAtZero := by
  intro n s
  obtain ⟨hdt, hst⟩ := ticks_timers n s
  refine ⟨hdt, hst, ?_⟩
  rw [ticks_eq n s]
  exact ⟨fun _ _ => rfl, fun _ => rfl, rfl, ⟨rfl, rfl, rfl, rfl, rfl, rfl⟩⟩

/-- Settles O11: along the run; each operation but a Tick leaves the timer, a Step because its instruction does not write
it. -/
theorem timersCountTicksUnderEveryInterleaving : Obligations.TimersCountTicksUnderEveryInterleaving :=
  fun _ _ _ h =>
    ⟨fun hno => counts_ticks_of_operate (timer := State.dt) (fun hr hm => (operate_counts_timers hr hm).1) hno h,
      fun hno => counts_ticks_of_operate (timer := State.st) (fun hr hm => (operate_counts_timers hr hm).2) hno h⟩

/-- Settles O12: the snapshot is the framebuffer, and the next state differs in DIRTY alone. -/
theorem consumeFrameSnapshotsAndClearsDirty : Obligations.ConsumeFrameSnapshotsAndClearsDirty := by
  intro s
  exact ⟨rfl, _, rfl, rfl, rfl, rfl, fun _ _ => rfl, fun _ => rfl, rfl, rfl, ⟨rfl, rfl⟩, ⟨rfl, rfl⟩,
    ⟨rfl, rfl, rfl, rfl, rfl, rfl⟩, rfl, ⟨rfl, rfl, rfl, rfl, rfl⟩⟩

end Sys2Proof

/-! PROOFS. The instruction cycle: the fetch, the ends of a Step, a Faulted machine and a finished run. -/

namespace Sys2Proof

open Machine

namespace Machine

/-! ### The fetch -/

theorem wordOfBytes_toNat (hi lo : Byte) : (wordOfBytes hi lo).toNat = hi.toNat * 256 + lo.toNat := by
  have := hi.isLt
  have := lo.isLt
  rw [wordOfBytes, BitVec.toNat_ofNat, Nat.mod_eq_of_lt (by omega)]

theorem fetch_of_le {s : State} (h : s.pc.toNat ≤ 0xFFE) :
    fetch s = .ok (wordOfBytes (s.mem.read s.pc.toNat) (s.mem.read (s.pc.toNat + 1))) := by
  rcases fetch_spec s with ⟨-, e⟩ | ⟨hpc, -⟩ | ⟨hpc, -⟩
  · exact e
  · omega
  · omega

theorem fetch_of_gt {s : State} (h : 0xFFE < s.pc.toNat) :
    fetch s = .error (.memoryOutOfRange (if s.pc.toNat = 0xFFF then 0x1000 else s.pc)) := by
  rcases fetch_spec s with ⟨hpc, -⟩ | ⟨hpc, e⟩ | ⟨hpc, e⟩
  · omega
  · rw [e, if_pos hpc]
  · rw [e, if_neg (by omega)]

/-! ### The ends of a Step -/

theorem step_of_faulted {s : State} (h : s.status = .faulted) : step s = .next s.stayFaulted.endStep := by
  simp only [step, cycle, h]

theorem step_of_fetch_error {s : State} {f : Fault} (hrun : s.status = .running) (hfetch : fetch s = .error f) :
    step s = .next (s.takeFault f).endStep := by
  simp only [step, cycle, hrun, hfetch]

theorem step_of_unrecognized {s : State} {w : Word} {e : DecodeError} (hrun : s.status = .running)
    (hfetch : fetch s = .ok w) (hdec : decodeWord w = .error e) : step s = .next (s.takeDecodeFault w).endStep := by
  simp only [step, cycle, hrun, hfetch, decodeAndExec, hdec, finish]

theorem step_of_decoded {s u : State} {w : Word} {i : Instr} (hrun : s.status = .running) (hfetch : fetch s = .ok w)
    (hdec : decodeWord w = .ok i) (hexec : exec i s = .next u) : step s = .next u.endStep := by
  simp only [step, cycle, hrun, hfetch, decodeAndExec, hdec, hexec, finish]

theorem decodeWord_of_decode {hi lo : Byte} {rest rest' : List Byte} {i : Instr}
    (h : decode (hi :: lo :: rest) = .ok (i, rest')) : decodeWord (wordOfBytes hi lo) = .ok i := by
  rw [decode] at h
  split at h
  · rename_i hj; cases h; exact hj
  · cases h

/-! ### Runs of Steps -/

theorem run_succ (k : Nat) {s t : State} (h : step s = .next t) :
    Host.Core.run Sys2Proof.core (k + 1) s = Host.Core.run Sys2Proof.core k t := by
  have hstep : Sys2Proof.core.step s = .next t := h
  simp only [Host.Core.run, hstep]

/-- The instruction at PC depends on STATUS, PC and memory alone. -/
theorem executes_congr {s t : State} (hstatus : t.status = s.status) (hmem : t.mem = s.mem) (hpc : t.pc = s.pc) :
    executes t = executes s := by
  simp only [executes, fetch, hstatus, hmem, hpc]

theorem step_of_executes {s u : State} {i : Instr} (h : executes s = some i) (hexec : exec i s = .next u) :
    step s = .next u.endStep := by
  obtain ⟨t, ht⟩ := step_outcome s
  rcases step_executes_cases ht with ⟨j, v, hj, hv, rfl⟩ | ⟨hnone, -⟩
  · cases h.symm.trans hj
    cases hexec.symm.trans hv
    exact ht
  · cases h.symm.trans hnone

/-- A finished machine's Step is the jump to where it stands. -/
theorem step_of_finished {s : State} (h : Finished s) : step s = .next (s.retireTo s.pc).endStep := by
  obtain ⟨-, nnn, hexec, hnnn⟩ := h
  have htarget : zextAddr nnn = s.pc := BitVec.eq_of_toNat_eq ((zextAddr_toNat nnn).trans hnnn)
  rw [step_of_executes hexec (exec_jp nnn s), htarget]

theorem finished_retireTo_endStep {s : State} (h : Finished s) : Finished (s.retireTo s.pc).endStep := by
  obtain ⟨hclean, nnn, hexec, hnnn⟩ := h
  exact ⟨hclean, nnn, (executes_congr rfl rfl rfl).trans hexec, hnnn⟩

end Machine

/-! ### The statements of 30_encoding.md, 20_memory.md and 60_exceptions.md on the cycle -/

/-- Settles O13: the two bytes at PC are the fetched word, and the Step of an instruction that answers a next state ends
with it. -/
theorem stepRunsTheDecodedInstruction : Obligations.StepRunsTheDecodedInstruction := by
  intro s i hrun hpc _ hdec
  obtain ⟨t, ht, -⟩ := exec_outcome i s
  exact ⟨t, ht, step_of_decoded hrun (fetch_of_le hpc) (decodeWord_of_decode hdec) ht⟩

/-- Settles O14: a word that no row selects is unrecognized, and the Step takes the decode fault. -/
theorem unrecognizedWordIsReportedNoOp : Obligations.UnrecognizedWordIsReportedNoOp := by
  intro s w hrun hpc hw hnone
  have hword : wordOfBytes (s.mem.read s.pc.toNat) (s.mem.read (s.pc.toNat + 1)) = w :=
    BitVec.eq_of_toNat_eq ((wordOfBytes_toNat _ _).trans hw.symm)
  have hfetch : fetch s = .ok w := hword ▸ fetch_of_le hpc
  exact ⟨_, step_of_unrecognized hrun hfetch ((decodeWord_eq_error_iff w).mpr hnone), rfl, rfl, rfl, rfl, rfl, hrun, rfl,
    rfl, fun _ _ => rfl, fun _ => rfl, rfl, ⟨rfl, rfl⟩, ⟨rfl, rfl⟩, ⟨rfl, rfl⟩, rfl, rfl⟩

/-- Settles O15: the fetched word is packed from the two bytes, whatever the parity of PC. -/
theorem fetchIsBigEndianAtAnyParity : Obligations.FetchIsBigEndianAtAnyParity :=
  fun _ hpc => ⟨_, fetch_of_le hpc, wordOfBytes_toNat _ _⟩

/-- Settles O16: the fault of the fetch is taken, and the end of a Step touches nothing it speaks of. -/
theorem fetchOutOfRangeFaults : Obligations.FetchOutOfRangeFaults :=
  fun s hrun hpc => ⟨_, step_of_fetch_error hrun (fetch_of_gt hpc), faultTaken_takeFault s (.memoryOutOfRange _), rfl, rfl⟩

/-- Settles O17: by induction on the number of Steps, each of which returns the recorded fault. -/
theorem faultedIsAbsorbing : Obligations.FaultedIsAbsorbing := by
  intro k
  induction k with
  | zero =>
    intro s hs
    exact ⟨s, rfl, hs, rfl, rfl, ⟨fun _ _ => rfl, fun _ => rfl, rfl, rfl, ⟨rfl, rfl⟩, ⟨rfl, rfl⟩, ⟨rfl, rfl⟩,
      ⟨rfl, rfl, rfl⟩⟩, rfl, rfl, nofun⟩
  | succ k ih =>
    intro s hs
    obtain ⟨t, hrun, hstatus, hcause, hinfo, hsame, hload, hbeep, hout⟩ := ih s.stayFaulted.endStep hs
    refine ⟨t, (run_succ k (step_of_faulted hs)).trans hrun, hstatus, hcause, hinfo, hsame, hload, hbeep, fun _ => ?_⟩
    cases k with
    | zero => cases hrun; rfl
    | succ k => exact hout k.succ_pos

/-- Settles O23: by induction on the number of Steps; each is the jump to PC itself, after which the machine is finished
again and nothing but the outcome, the inputs and the model's own fields differ. -/
theorem finishedRunsStayFinished : Obligations.FinishedRunsStayFinished := by
  intro k
  induction k with
  | zero =>
    intro s hs
    exact ⟨s, rfl, hs, ⟨fun _ _ => rfl, fun _ => rfl, rfl, rfl, ⟨rfl, rfl⟩, ⟨rfl, rfl⟩, ⟨rfl, rfl⟩, ⟨rfl, rfl, rfl⟩⟩,
      ⟨rfl, rfl, rfl, rfl, rfl, rfl⟩, rfl, rfl⟩
  | succ k ih =>
    intro s hs
    obtain ⟨t, hrun, hrest⟩ := ih _ (finished_retireTo_endStep hs)
    exact ⟨t, (run_succ k (step_of_finished hs)).trans hrun, hrest⟩

end Sys2Proof

/-! PROOFS. The call stack: calls and returns, one by one, in balanced sequences, and in runs of the machine. -/

namespace Sys2Proof

open Machine

namespace Machine

/-! ### The meanings of 00EE and 2nnn, by the number of live entries -/

theorem push_of_lt {s : State} {k : Fin 16} (w : Word) (h : s.sp.val = k.val) :
    push s w = .ok { s with stack := s.stack.set k.val w k.isLt, sp := k.succ } := by
  rcases push_cases s w with ⟨hlt, t, e, rfl⟩ | ⟨hfull, -⟩
  · rw [e]
    simp only [h]
    rfl
  · omega

theorem push_of_full {s : State} (w : Word) (h : 16 ≤ s.sp.val) : push s w = .error (.stackOverflow s.pc) := by
  rcases push_cases s w with ⟨hlt, -⟩ | ⟨-, e⟩
  · omega
  · exact e

theorem exec_call_of_lt (nnn : Addr) {s : State} {k : Fin 16} (h : s.sp.val = k.val) :
    exec (.call nnn) s = .next
      (({ s with stack := s.stack.set k.val (s.pc + 2) k.isLt, sp := k.succ } : State).retireTo (zextAddr nnn)) := by
  rw [exec_call, execCall, push_of_lt _ h]
  rfl

theorem exec_call_of_full (nnn : Addr) {s : State} (h : s.sp.val = 16) :
    exec (.call nnn) s = .next (s.takeFault (.stackOverflow s.pc)) := by
  rw [exec_call, execCall, push_of_full _ h.ge]
  rfl

theorem exec_ret_of_succ {s : State} {k : Fin 16} (h : s.sp.val = k.val + 1) :
    exec .ret s = .next (({ s with sp := k.castSucc } : State).retireTo s.stack[k]) := by
  rcases execRet_cases s with ⟨hlt, t, e, rfl⟩ | ⟨hempty, -⟩
  · rw [exec_ret, e]
    simp only [h, Nat.add_sub_cancel]
    rfl
  · omega

theorem exec_ret_of_empty {s : State} (h : s.sp.val = 0) :
    exec .ret s = .next (s.takeFault (.stackUnderflow s.pc)) := by
  rcases execRet_cases s with ⟨hlt, -⟩ | ⟨-, e⟩
  · omega
  · exact e

theorem onlyStack_retireTo (s : State) (stack : Vector Word 16) (sp : Fin 17) (w : Word) :
    OnlyStack s (({ s with stack := stack, sp := sp } : State).retireTo w) :=
  ⟨fun _ _ => rfl, fun _ => rfl, rfl, ⟨rfl, rfl⟩, ⟨rfl, rfl⟩, ⟨rfl, rfl, rfl, rfl, rfl, rfl⟩,
    ⟨rfl, rfl, rfl, rfl, rfl⟩⟩

theorem stack_set_same (v : Vector Word 16) (k : Fin 16) (w : Word) : (v.set k.val w k.isLt)[k] = w :=
  Vector.getElem_set_self k.isLt

theorem stack_set_other (v : Vector Word 16) {k j : Fin 16} (w : Word) (h : j ≠ k) :
    (v.set k.val w k.isLt)[j] = v[j] :=
  Vector.getElem_set_ne k.isLt j.isLt fun e => h (Fin.ext e.symm)

/-! ### Instructions one after the other -/

theorem execAll_cons {i : Instr} {is : List Instr} {s t : State} (h : execAll (i :: is) s = .next t) :
    ∃ u, exec i s = .next u ∧ execAll is u = .next t := by
  unfold execAll at h
  split at h
  · rename_i u hu; exact ⟨u, hu, h⟩
  · cases h
  · cases h

theorem execAll_cons_of_exec {i : Instr} {is : List Instr} {s u : State} (h : exec i s = .next u) :
    execAll (i :: is) s = execAll is u := by
  simp only [execAll, h]

theorem execAll_append {is js : List Instr} {s t : State} (h : execAll (is ++ js) s = .next t) :
    ∃ m, execAll is s = .next m ∧ execAll js m = .next t := by
  induction is generalizing s with
  | nil => exact ⟨s, rfl, h⟩
  | cons i is ih =>
    obtain ⟨u, hu, hrest⟩ := execAll_cons h
    obtain ⟨m, hm, hjs⟩ := ih hrest
    exact ⟨m, (execAll_cons_of_exec hu).trans hm, hjs⟩

/-- No instruction returns a Faulted machine to Running (60_exceptions.md R204, R208). -/
theorem running_of_exec {i : Instr} {s t : State} (h : exec i s = .next t) (ht : t.status = .running) :
    s.status = .running := by
  rcases exec_cases h with ⟨f, -, rfl⟩ | hframe
  · cases ht
  · exact hframe.status.1 ▸ ht

theorem running_of_execAll {is : List Instr} {s t : State} (h : execAll is s = .next t) (ht : t.status = .running) :
    s.status = .running := by
  induction is generalizing s with
  | nil => cases h; exact ht
  | cons i is ih =>
    obtain ⟨u, hu, hrest⟩ := execAll_cons h
    exact running_of_exec hu (ih hrest)

/-- While there is room, calls succeed one after the other, each pushing one entry. -/
theorem execAll_calls (targets : List Addr) {s : State} (hrun : s.status = .running)
    (hroom : s.sp.val + targets.length ≤ 16) :
    ∃ t, execAll (targets.map .call) s = .next t ∧ t.status = .running ∧ t.sp.val = s.sp.val + targets.length := by
  induction targets generalizing s with
  | nil => exact ⟨s, rfl, hrun, rfl⟩
  | cons nnn targets ih =>
    rw [List.length_cons] at hroom ⊢
    obtain ⟨u, hu, hurun, husp⟩ : ∃ u, exec (.call nnn) s = .next u ∧ u.status = .running ∧ u.sp.val = s.sp.val + 1 :=
      ⟨_, exec_call_of_lt nnn (k := ⟨s.sp.val, by omega⟩) rfl, hrun, rfl⟩
    obtain ⟨t, ht, hstatus, hsp⟩ := ih hurun (by omega)
    exact ⟨t, (execAll_cons_of_exec hu).trans ht, hstatus, by omega⟩

/-! ### What balanced instructions leave of the call stack -/

/-- The stack pointer and the live entries are the same; an entry that is not live may differ. -/
def SameLiveStack (s t : State) : Prop := t.sp = s.sp ∧ ∀ k : Fin 16, k.val < s.sp.val → t.stack[k] = s.stack[k]

theorem SameLiveStack.of_sameStack {s t : State} (h : SameStack s t) : SameLiveStack s t :=
  ⟨h.1, fun k _ => by rw [h.2]⟩

theorem SameLiveStack.trans {s t u : State} (h : SameLiveStack s t) (h' : SameLiveStack t u) : SameLiveStack s u :=
  ⟨h'.1.trans h.1, fun k hk => (h'.2 k (by rw [h.1]; exact hk)).trans (h.2 k hk)⟩

/-- The instructions `is` were executed in order, each ended Running, and nothing that came between s, them and t wrote the
call stack. -/
inductive StackRun : List Instr → State → State → Prop where
  | nil {s t : State} : SameStack s t → StackRun [] s t
  | cons {i : Instr} {is : List Instr} {s m u t : State} :
    SameStack s m → exec i m = .next u → u.status = .running → StackRun is u t → StackRun (i :: is) s t

theorem StackRun.of_sameStack {is : List Instr} {s s' t : State} (hrun : StackRun is s' t) (h : SameStack s s') :
    StackRun is s t := by
  obtain ⟨hsp, hstack⟩ := h
  cases hrun with
  | nil hsame => exact .nil ⟨hsame.1.trans hsp, hsame.2.trans hstack⟩
  | cons hsame hexec hu hrest => exact .cons ⟨hsame.1.trans hsp, hsame.2.trans hstack⟩ hexec hu hrest

theorem StackRun.split {is js : List Instr} {s t : State} (h : StackRun (is ++ js) s t) :
    ∃ m, StackRun is s m ∧ StackRun js m t := by
  induction is generalizing s with
  | nil => exact ⟨s, .nil ⟨rfl, rfl⟩, h⟩
  | cons i is ih =>
    cases h with
    | cons hsame hexec hu hrest =>
      obtain ⟨m, hm, hjs⟩ := ih hrest
      exact ⟨m, .cons hsame hexec hu hm, hjs⟩

/-- An instruction that is no call and no return leaves the call stack. -/
theorem exec_keeps_stack {i : Instr} {s t : State} (hcall : ∀ nnn, i ≠ .call nnn) (hret : i ≠ .ret)
    (h : exec i s = .next t) : SameStack s t := by
  rcases exec_cases h with ⟨f, -, rfl⟩ | hframe
  · exact ⟨rfl, rfl⟩
  cases i with
  | call nnn => exact absurd rfl (hcall nnn)
  | ret => exact absurd rfl hret
  | _ => exact ⟨hframe.sp rfl, hframe.stack rfl⟩

/-- A call that ends Running had room, and pushed PC + 2. -/
theorem exec_call_running {nnn : Addr} {s u : State} (h : exec (.call nnn) s = .next u) (hu : u.status = .running) :
    ∃ k : Fin 16, s.sp.val = k.val
      ∧ u = ({ s with stack := s.stack.set k.val (s.pc + 2) k.isLt, sp := k.succ } : State).retireTo (zextAddr nnn) := by
  by_cases hfull : s.sp.val = 16
  · cases (exec_call_of_full nnn hfull).symm.trans h
    cases hu
  · have hlt := s.sp.isLt
    cases (exec_call_of_lt nnn (k := ⟨s.sp.val, by omega⟩) rfl).symm.trans h
    exact ⟨_, rfl, rfl⟩

/-- A call, anything that keeps the live entries, and the return: PC is the one after the call, and the stack is as before
it (40_control_flow.md R109). -/
theorem return_to_caller {nnn : Addr} {s u m v : State} (hcall : exec (.call nnn) s = .next u)
    (hu : u.status = .running) (hbody : SameLiveStack u m) (hret : exec .ret m = .next v) :
    v.pc = s.pc + 2 ∧ SameLiveStack s v := by
  obtain ⟨k, hk, rfl⟩ := exec_call_running hcall hu
  obtain ⟨hsp, hlive⟩ := hbody
  cases (exec_ret_of_succ (k := k) (congrArg Fin.val hsp)).symm.trans hret
  refine ⟨?_, Fin.ext hk.symm, fun j hj => ?_⟩
  · exact (hlive k (Nat.lt_succ_self _)).trans (stack_set_same _ k _)
  · have hjk : j ≠ k := fun e => by omega
    have hlt : j.val < k.val + 1 := by omega
    exact (hlive j hlt).trans (stack_set_other _ _ hjk)

theorem sameLiveStack_of_balanced {is : List Instr} (hbal : Balanced is) {s t : State} (h : StackRun is s t) :
    SameLiveStack s t := by
  induction hbal generalizing s t with
  | nil => cases h with | nil hsame => exact .of_sameStack hsame
  | plain i is hcall hret _ ih =>
    cases h with
    | cons hsame hexec _ hrest =>
      have hi := SameLiveStack.of_sameStack (exec_keeps_stack hcall hret hexec)
      exact (SameLiveStack.of_sameStack hsame).trans (hi.trans (ih hrest))
  | nested nnn body is _ _ ihbody ih =>
    cases h with
    | cons hsame hexec hu hrest =>
      obtain ⟨m, hm, hrest⟩ := hrest.split
      cases hrest with
      | cons hsame' hret _ hrest =>
        have hinner := (ihbody hm).trans (.of_sameStack hsame')
        exact (SameLiveStack.of_sameStack hsame).trans ((return_to_caller hexec hu hinner hret).2.trans (ih hrest))

theorem sp_of_calls {targets : List Addr} {s t : State} (h : StackRun (targets.map .call) s t) :
    t.sp.val = s.sp.val + targets.length := by
  induction targets generalizing s with
  | nil => cases h with | nil hsame => rw [hsame.1]; rfl
  | cons nnn targets ih =>
    cases h with
    | cons hsame hexec hu hrest =>
      obtain ⟨k, hk, rfl⟩ := exec_call_running hexec hu
      rw [hsame.1] at hk
      rw [ih hrest, hk, List.length_cons, State.retireTo_sp, Fin.val_succ]
      omega

theorem stackRun_of_execAll {is : List Instr} {s t : State} (h : execAll is s = .next t) (ht : t.status = .running) :
    StackRun is s t := by
  induction is generalizing s with
  | nil => cases h; exact .nil ⟨rfl, rfl⟩
  | cons i is ih =>
    obtain ⟨u, hu, hrest⟩ := execAll_cons h
    exact .cons ⟨rfl, rfl⟩ hu (running_of_execAll hrest ht) (ih hrest)

/-! ### Runs of host operations -/

theorem running_of_executes {s : State} {i : Instr} (h : executes s = some i) : s.status = .running := by
  cases hs : s.status with
  | running => rfl
  | faulted => simp only [executes, hs] at h; cases h

/-- The Step of a known instruction is its execution. -/
theorem exec_of_step {s t : State} {i : Instr} (h : step s = .next t) (hi : executes s = some i) :
    ∃ u, exec i s = .next u ∧ t = u.endStep := by
  rcases step_executes_cases h with ⟨j, u, hj, hu, rfl⟩ | ⟨hnone, -⟩
  · cases hi.symm.trans hj
    exact ⟨u, hu, rfl⟩
  · cases hi.symm.trans hnone

theorem running_of_step {s t : State} (h : step s = .next t) (ht : t.status = .running) : s.status = .running := by
  rcases step_cases h with ⟨-, rfl⟩ | ⟨hs, -⟩ | ⟨hs, -⟩ | ⟨hs, -⟩
  · exact ht
  · exact hs
  · exact hs
  · exact hs

theorem running_of_operate {op : HostOp} {s t : State} (hop : op ≠ .reset) (h : operate op s = .next t)
    (ht : t.status = .running) : s.status = .running := by
  cases op with
  | reset => exact absurd rfl hop
  | load rom => rw [(operate_load_cases h).2] at ht; exact ht
  | step inp => exact running_of_step (s := present inp s) h ht
  | tick => cases h; exact ht
  | consumeFrame => cases h; exact ht

theorem running_of_operateAll {ops : List HostOp} {s t : State} (hops : ∀ op ∈ ops, op ≠ .reset)
    (h : operateAll ops s = .next t) (ht : t.status = .running) : s.status = .running := by
  induction ops generalizing s with
  | nil => cases h; exact ht
  | cons op ops ih =>
    obtain ⟨m, hm, hrest⟩ := operateAll_cons h
    have hmrun := ih (fun o ho => hops o (List.mem_cons_of_mem _ ho)) hrest
    exact running_of_operate (hops op List.mem_cons_self) hm hmrun

theorem executedIn_cons {op : HostOp} {s m : State} (ops : List HostOp) (h : operate op s = .next m) :
    executedIn (op :: ops) s = executedBy op s ++ executedIn ops m := by
  simp only [executedIn, h]

/-- One host operation executes at most one instruction, and writes the call stack only by it. -/
theorem stackRun_of_operate {op : HostOp} {is : List Instr} {s m t : State} (hop : op ≠ .reset)
    (h : operate op s = .next m) (hm : m.status = .running) (hrest : StackRun is m t) :
    StackRun (executedBy op s ++ is) s t := by
  cases op with
  | reset => exact absurd rfl hop
  | load rom =>
    rw [(operate_load_cases h).2] at hrest
    exact hrest.of_sameStack ⟨rfl, rfl⟩
  | step inp =>
    rw [executedBy]
    rcases step_executes_cases (s := present inp s) h with ⟨i, u, hi, hu, rfl⟩ | ⟨hnone, hsame, -⟩
    · rw [hi]
      exact .cons (m := present inp s) ⟨rfl, rfl⟩ hu hm (hrest.of_sameStack ⟨rfl, rfl⟩)
    · rw [hnone]
      exact hrest.of_sameStack hsame
  | tick => cases h; exact hrest.of_sameStack ⟨rfl, rfl⟩
  | consumeFrame => cases h; exact hrest.of_sameStack ⟨rfl, rfl⟩

theorem stackRun_of_operateAll {ops : List HostOp} {s t : State} (hops : ∀ op ∈ ops, op ≠ .reset)
    (h : operateAll ops s = .next t) (ht : t.status = .running) : StackRun (executedIn ops s) s t := by
  induction ops generalizing s with
  | nil => cases h; exact .nil ⟨rfl, rfl⟩
  | cons op ops ih =>
    obtain ⟨m, hm, hrest⟩ := operateAll_cons h
    have hops' : ∀ o ∈ ops, o ≠ .reset := fun o ho => hops o (List.mem_cons_of_mem _ ho)
    rw [executedIn_cons ops hm]
    exact stackRun_of_operate (hops op List.mem_cons_self) hm (running_of_operateAll hops' hrest ht) (ih hops' hrest)

end Machine

/-! ### The statements of 10_state.md and 40_control_flow.md on the call stack -/

/-- Settles O28: the top entry goes to PC as it is, and the array keeps it. -/
theorem returnPopsPc : Obligations.ReturnPopsPc :=
  ⟨encodedAs_of_toNat_encode rfl, fun s k hk =>
    ⟨_, exec_ret_of_succ hk, rfl, rfl, rfl, rfl, onlyStack_retireTo s s.stack k.castSucc _⟩⟩

/-- Settles O29: Pop finds no live entry, and its fault is taken. -/
theorem returnOnEmptyStackFaults : Obligations.ReturnOnEmptyStackFaults :=
  fun s hsp => ⟨_, exec_ret_of_empty hsp, faultTaken_takeFault s (.stackUnderflow s.pc), sameEnv_takeFault s _⟩

/-- Settles O30: the entry SP indexes is written, and no other. -/
theorem callPushesTheReturnAddress : Obligations.CallPushesTheReturnAddress := by
  intro nnn s
  refine ⟨encodedAs_of_toNat_encode (packNNN_toNat 0x2 nnn), fun k hk => ?_⟩
  exact ⟨_, exec_call_of_lt nnn hk, zextAddr_toNat nnn, rfl, stack_set_same _ k _, fun j hj => stack_set_other _ _ hj,
    rfl, onlyStack_retireTo s _ _ _⟩

/-- Settles O31: Push finds no room, and its fault is taken. -/
theorem callOnFullStackFaults : Obligations.CallOnFullStackFaults :=
  fun nnn s hsp => ⟨_, exec_call_of_full nnn hsp, faultTaken_takeFault s (.stackOverflow s.pc), sameEnv_takeFault s _⟩

theorem seventeenthCallFaults : SeventeenthCallFaults := by
  intro targets last s hlen hsp hrun
  obtain ⟨t, ht, hstatus, htsp⟩ := execAll_calls targets hrun (by omega)
  have hfull : t.sp.val = 16 := by omega
  exact ⟨t, _, ht, hstatus, hfull, exec_call_of_full last hfull, rfl, rfl⟩

/-- Settles O32: the two branches of Push, and sixteen calls that each push one entry. -/
theorem pushNeedsRoom : Obligations.PushNeedsRoom := by
  refine ⟨fun s w => ⟨fun k hk => ?_, push_of_full w⟩, seventeenthCallFaults⟩
  exact ⟨_, push_of_lt w hk, stack_set_same _ k w, rfl, fun j hj => stack_set_other _ w hj⟩

/-- Settles O33: the body keeps the live entries, so the return pops what the call pushed. -/
theorem balancedCallsReturnToTheCaller : Obligations.BalancedCallsReturnToTheCaller := by
  refine ⟨fun nnn body s t hbal _ h ht => ?_, seventeenthCallFaults⟩
  obtain ⟨u, hcall, hrest⟩ := execAll_cons h
  obtain ⟨m, hbody, hlast⟩ := execAll_append hrest
  obtain ⟨v, hret, hv⟩ := execAll_cons hlast
  cases hv
  have hm : m.status = .running := running_of_exec hret ht
  have hlive := sameLiveStack_of_balanced hbal (stackRun_of_execAll hbody hm)
  exact return_to_caller hcall (running_of_execAll hbody hm) hlive hret

/-- Settles O58: what lies between the Steps leaves the call stack, so a run is its executed instructions one after the
other; the 17th call finds the stack full. -/
theorem balancedRunsReturnToTheCaller : Obligations.BalancedRunsReturnToTheCaller := by
  constructor
  · intro nnn body first last mid s m t hbal hmid hfirst hrun hexecuted hlast ht hstatus
    obtain ⟨c, hc, hrest⟩ := operateAll_cons hrun
    obtain ⟨u, hcall, rfl⟩ := exec_of_step hc hfirst
    obtain ⟨v, hret, rfl⟩ := exec_of_step ht hlast
    have hbody : executedIn mid u.endStep = body := by
      rw [executedIn_cons mid hc, executedBy, hfirst] at hexecuted
      exact (List.cons.inj hexecuted).2
    have hm : m.status = .running := running_of_executes hlast
    have hu : u.status = .running := running_of_operateAll (s := u.endStep) hmid hrest hm
    have hstack := stackRun_of_operateAll hmid hrest hm
    rw [hbody] at hstack
    have hlive : SameLiveStack u m := sameLiveStack_of_balanced (s := u.endStep) hbal hstack
    exact return_to_caller (s := present first s) (m := present last m) (v := v) hcall hu hlive hret
  · intro targets nnn last ops s t hlen hsp hops hrun hexecuted hlast
    have hcalls := stackRun_of_operateAll hops hrun (running_of_executes hlast)
    rw [hexecuted] at hcalls
    have hfull : t.sp.val = 16 := by rw [sp_of_calls hcalls, hsp, hlen]
    exact ⟨hfull, _, step_of_executes hlast (exec_call_of_full (s := present last t) nnn hfull), rfl, rfl, rfl⟩

end Sys2Proof

/-! PROOFS. One instruction at a time: the indexed jump, the register skips, the differences and shifts, the random byte,
and the keypad. -/

namespace Sys2Proof

open Machine

/-! ### Words -/

/-- The words of class E with low byte kk (30_encoding.md R76). -/
theorem packXKK_classE_toNat (x : RegIx) (kk : Byte) :
    (packXKK 0xE x kk).toNat = 0xE000 + kk.toNat + x.toNat * 256 := by
  have hE : (0xE : BitVec 4).toNat = 14 := rfl
  rw [packXKK_toNat, hE]
  omega

/-- The words of a register skip with low nibble 0 (30_encoding.md R76). -/
theorem packXYN_zero_toNat (c : BitVec 4) (x y : RegIx) :
    (packXYN c x y 0).toNat = c.toNat * 0x1000 + x.toNat * 256 + y.toNat * 16 := by
  have h0 : (0 : BitVec 4).toNat = 0 := rfl
  rw [packXYN_toNat, h0, Nat.add_zero]

theorem decodeWord_regSkip_error {c : BitVec 4} (hc : c = 5 ∨ c = 9) (x y : RegIx) {n : BitVec 4} (hn : n ≠ 0) :
    decodeWord (packXYN c x y n) = .error (.unrecognized (packXYN c x y n)) := by
  rcases hc with rfl | rfl
  · simpa [decodeWord] using hn
  · simpa [decodeWord] using hn

/-- A register skip's word with a nonzero low nibble is no instruction. -/
theorem not_encodedAs_regSkip {c : BitVec 4} (hc : c = 5 ∨ c = 9) {x y : RegIx} {w n : Nat}
    (hw : w = c.toNat * 0x1000 + x.toNat * 256 + y.toNat * 16) (h0 : 0 < n) (h16 : n < 16) (i : Instr) :
    ¬EncodedAs i (w + n) := by
  have hk : (BitVec.ofNat 4 n).toNat = n := by rw [BitVec.toNat_ofNat, Nat.mod_eq_of_lt h16]
  have hne : BitVec.ofNat 4 n ≠ 0 := fun e => by rw [e] at hk; exact h0.ne hk
  have hword : BitVec.ofNat 16 (w + n) = packXYN c x y (BitVec.ofNat 4 n) := by
    have hval := packXYN_toNat c x y (BitVec.ofNat 4 n)
    rw [hk, ← hw] at hval
    rw [← hval, BitVec.ofNat_toNat, BitVec.setWidth_eq]
  intro henc
  rw [EncodedAs, hword, decodeWord_regSkip_error hc x y hne] at henc
  cases henc

namespace Machine

/-! ### A flag written to VF, and a result computed from what that left (41_alu.md R134) -/

theorem retired_flagThen (s : State) (flag : Byte) (x : RegIx) (result : State → Byte) :
    Retired (s.pc + 2) (flagThen s flag x result) := ⟨rfl, rfl⟩

theorem onlyRegs_flagThen (s : State) (flag : Byte) (x : RegIx) (result : State → Byte) :
    OnlyRegs [x, 15] s (flagThen s flag x result) := by
  rw [flagThen_eq]
  refine onlyRegs_advance fun r hr => ?_
  have hx : r ≠ x := List.ne_of_not_mem_cons hr
  have hf : r ≠ 15 := List.ne_of_not_mem_cons (List.not_mem_of_not_mem_cons hr)
  exact (flagThen_reg s flag x result r).trans (by rw [if_neg hx, if_neg hf])

theorem flagThen_reg_result (s : State) (flag : Byte) (x : RegIx) (result : State → Byte) :
    (flagThen s flag x result).reg x = result (s.setVF flag) :=
  (flagThen_reg s flag x result x).trans (if_pos rfl)

theorem flagThen_reg_flag (s : State) (flag : Byte) {x : RegIx} (result : State → Byte) (hx : x ≠ 15) :
    (flagThen s flag x result).reg 15 = flag := by
  rw [flagThen_reg, if_neg hx.symm, if_pos rfl]

theorem reg_setVF_same (s : State) (b : Byte) : (s.setVF b).reg 15 = b := State.reg_setReg_same s 15 b

theorem reg_setVF_other (s : State) (b : Byte) {r : RegIx} (h : r ≠ 15) : (s.setVF b).reg r = s.reg r :=
  State.reg_setReg_other s b h

theorem flagByte_noBorrow_toNat (a b : Byte) : (flagByte (noBorrow a b)).toNat = if b.toNat ≤ a.toNat then 1 else 0 := by
  rw [flagByte_toNat]
  simp only [noBorrow, decide_eq_true_eq]

/-- A flag subtracted from itself. -/
theorem sub8_self (a : Byte) : sub8 a a = 0 :=
  BitVec.eq_of_toNat_eq (by rw [sub8_toNat, Nat.add_sub_cancel_left]; rfl)

/-- Vx after a flag was written to VF and then the difference of two registers to Vx: an operand VF reads as the flag. -/
theorem flagThen_sub_operands (s : State) (flag : Byte) (x a b : RegIx) {r : Byte}
    (hr : r = (flagThen s flag x fun t => sub8 (t.reg a) (t.reg b)).reg x) :
    (a ≠ 15 → b ≠ 15 → r.toNat = ((s.reg a).toNat + 256 - (s.reg b).toNat) % 256)
    ∧ (a ≠ 15 → b = 15 → r.toNat = ((s.reg a).toNat + 256 - flag.toNat) % 256)
    ∧ (a = 15 → b ≠ 15 → r.toNat = (flag.toNat + 256 - (s.reg b).toNat) % 256)
    ∧ (a = 15 → b = 15 → r = 0) := by
  rw [flagThen_reg_result] at hr
  subst hr
  refine ⟨fun ha hb => ?_, fun ha hb => ?_, fun ha hb => ?_, fun ha hb => ?_⟩
  · rw [sub8_toNat, reg_setVF_other s flag ha, reg_setVF_other s flag hb]
  · rw [sub8_toNat, reg_setVF_other s flag ha, hb, reg_setVF_same]
  · rw [sub8_toNat, ha, reg_setVF_same, reg_setVF_other s flag hb]
  · rw [ha, hb, sub8_self]

/-- The flag of a right shift is at most 1, so shifted again it is 0. -/
theorem shiftRight1_bitOutRight (a : Byte) : shiftRight1 (bitOutRight a) = 0 :=
  BitVec.eq_of_toNat_eq (by rw [shiftRight1_toNat, bitOutRight_toNat, show (0 : Byte).toNat = 0 from rfl]; omega)

/-- The flag of a left shift, shifted again. -/
theorem shiftLeft1_bitOutLeft (a : Byte) : shiftLeft1 (bitOutLeft a) = if 0x80 ≤ a.toNat then 2 else 0 := by
  have := a.isLt
  apply BitVec.eq_of_toNat_eq
  rw [shiftLeft1_toNat, bitOutLeft_toNat]
  split
  · rw [show (2 : Byte).toNat = 2 from rfl]; omega
  · rw [show (0 : Byte).toNat = 0 from rfl]; omega

end Machine

/-! ### The statements of 40_control_flow.md -/

/-- Settles O34: the largest sum is 0xFFF + 0xFF, below 16 bits. -/
theorem indexedJumpAddsV0 : Obligations.IndexedJumpAddsV0 := by
  intro nnn s
  refine ⟨encodedAs_of_toNat_encode (packNNN_toNat 0xB nnn), _, exec_jpV0 nnn s, indexedTarget_toNat nnn _, ?_, rfl,
    onlyPc_retireTo s _⟩
  have := nnn.isLt
  have := (s.reg 0).isLt
  rw [State.retireTo_pc, indexedTarget_toNat]
  omega

/-- Settles O36: the decoder asks for low nibble 0 in classes 5 and 9, and both meanings are the skip of
40_control_flow.md R100. -/
theorem registerSkips : Obligations.RegisterSkips := by
  intro x y s
  refine ⟨encodedAs_of_toNat_encode (packXYN_zero_toNat 0x5 x y), encodedAs_of_toNat_encode (packXYN_zero_toNat 0x9 x y),
    fun n h0 h16 i => ⟨?_, ?_⟩, ?_, ?_⟩
  · exact not_encodedAs_regSkip (.inl rfl) rfl h0 h16 i
  · exact not_encodedAs_regSkip (.inr rfl) rfl h0 h16 i
  · exact ⟨_, exec_seReg x y s, retired_skipIf_beq s _ _, onlyPc_skipIf s _⟩
  · exact ⟨_, exec_sneReg x y s, retired_skipIf_bne s _ _, onlyPc_skipIf s _⟩

/-! ### The statements of 41_alu.md -/

/-- Settles O41: the difference is taken after VF is written, so an operand VF reads as the flag. -/
theorem subtractSetsNotBorrow : Obligations.SubtractSetsNotBorrow := by
  intro x y s f hf
  rw [← flagByte_noBorrow_toNat] at hf
  subst hf
  obtain ⟨hplain, hsubtrahend, hminuend, hboth⟩ :=
    flagThen_sub_operands s (flagByte (noBorrow (s.reg x) (s.reg y))) x x y rfl
  refine ⟨encodedAs_of_toNat_encode (packXYN_class8_toNat x y 0x5), _, exec_sub x y s, fun hx => ?_, hplain, hsubtrahend,
    fun hx hy => ?_, fun hx hy => ?_, retired_flagThen s _ x _, onlyRegs_flagThen s _ x _⟩
  · rw [flagThen_reg_flag s _ _ hx]
  · subst hx; exact hminuend rfl hy
  · subst hx; exact hboth rfl hy

/-- Settles O42: the same with the operands exchanged. -/
theorem subtractReversedSetsNotBorrow : Obligations.SubtractReversedSetsNotBorrow := by
  intro x y s f hf
  rw [← flagByte_noBorrow_toNat] at hf
  subst hf
  obtain ⟨hplain, hsubtrahend, hminuend, hboth⟩ :=
    flagThen_sub_operands s (flagByte (noBorrow (s.reg y) (s.reg x))) x y x rfl
  refine ⟨encodedAs_of_toNat_encode (packXYN_class8_toNat x y 0x7), _, exec_subn x y s, fun hx => ?_,
    fun hx hy => hplain hy hx, fun hx hy => hminuend hy hx, fun hx hy => ?_, fun hx hy => ?_, retired_flagThen s _ x _,
    onlyRegs_flagThen s _ x _⟩
  · rw [flagThen_reg_flag s _ _ hx]
  · subst hx; exact hsubtrahend hy rfl
  · subst hx; exact hboth hy rfl

/-- Settles O43: the flag is the bit shifted out; with x = F it is the flag that is shifted, not the old VF. -/
theorem shiftsByOneInPlace : Obligations.ShiftsByOneInPlace := by
  intro x y s
  refine ⟨encodedAs_of_toNat_encode (packXYN_class8_toNat x y 0x6),
    encodedAs_of_toNat_encode (packXYN_class8_toNat x y 0xE), ?_, ?_⟩
  · refine ⟨_, exec_shr x y s, fun hx => ⟨?_, ?_⟩, fun hx => ?_, retired_flagThen s _ x _, onlyRegs_flagThen s _ x _⟩
    · rw [flagThen_reg_flag s _ _ hx, bitOutRight_toNat]
    · rw [flagThen_reg_result, reg_setVF_other s _ hx, shiftRight1_toNat]
    · subst hx
      rw [flagThen_reg_result, reg_setVF_same, shiftRight1_bitOutRight]
  · refine ⟨_, exec_shl x y s, fun hx => ⟨?_, ?_⟩, fun hx => ?_, retired_flagThen s _ x _, onlyRegs_flagThen s _ x _⟩
    · rw [flagThen_reg_flag s _ _ hx, bitOutLeft_toNat]
    · rw [flagThen_reg_result, reg_setVF_other s _ hx, shiftLeft1_toNat]
    · subst hx
      rw [flagThen_reg_result, reg_setVF_same, shiftLeft1_bitOutLeft]

/-- Settles O44: the byte written to Vx is the AND of the two, which acts on each bit alone. -/
theorem randomByteIsMasked : Obligations.RandomByteIsMasked := by
  intro x kk s
  refine ⟨encodedAs_of_toNat_encode (packXKK_toNat 0xC x kk), _, exec_rnd x kk s, fun k _ => ?_, retired_advance _,
    onlyRegs_setReg s x _⟩
  rw [State.reg_advance, State.reg_setReg_same, BitVec.getLsbD_and]

/-! ### The statements of 44_keypad_timers.md -/

/-- Settles O55: for a key the skip is on its level or on the negation; above 15 it is a skip on a free value. -/
theorem keypadSkips : Obligations.KeypadSkips := by
  intro x s
  refine ⟨encodedAs_of_toNat_encode (packXKK_classE_toNat x 0x9E), encodedAs_of_toNat_encode (packXKK_classE_toNat x 0xA1),
    ?_, ?_⟩
  · refine ⟨_, exec_skp x s, fun hkey => ?_, skipIf_pc_eq_or s _, rfl, onlyPc_skipIf s _⟩
    rw [State.skipIf_pc, skipsOnPressed_of_le s hkey]
  · refine ⟨_, exec_sknp x s, fun hkey => ?_, skipIf_pc_eq_or s _, rfl, onlyPc_skipIf s _⟩
    rw [State.skipIf_pc, skipsOnNotPressed_of_le s hkey]
    cases s.inp.keyLevel.getLsbD (s.reg x).toNat with
    | true => rfl
    | false => rfl

/-- Settles O56: without an event only the outcome differs; with one the key, extended with zeros, is written to Vx. -/
theorem keyWaitEndsWithAnEvent : Obligations.KeyWaitEndsWithAnEvent := by
  intro x s
  refine ⟨encodedAs_of_toNat_encode (packXKK_classF_toNat x 0x0A), fun hnone => ?_, fun k hk => ?_⟩
  · exact ⟨_, exec_ldVxK_waits x hnone, rfl, rfl, onlyPc_retireTo s s.pc⟩
  · refine ⟨_, exec_ldVxK_takes x hk, ?_, retired_advance _, onlyRegs_setReg s x _⟩
    have := k.isLt
    rw [State.reg_advance, State.reg_setReg_same, BitVec.toNat_setWidth, Nat.mod_eq_of_lt (by omega)]

end Sys2Proof

/-! PROOFS. Memory transfers: glyph addresses, the digits and the register block that are stored, the block that is loaded,
their faults, and the fetch that follows a store. -/

namespace Sys2Proof

open Machine

namespace Machine

/-! ### Data accesses by their range (42_index_memory.md R156) -/

theorem settle_inRange_of_le (s u : State) {base : Word} {len : Nat} (h : len = 0 ∨ base.toNat + (len - 1) ≤ 0xFFF) :
    settle s (inRange base len u) = .next u := by
  rcases settle_inRange_cases s u base len with ⟨-, e⟩ | ⟨hout, -⟩
  · exact e
  · omega

/-- The lowest address out of range, max(base, 0x1000), as the statements write it. -/
theorem faultAddress_eq (base : Word) :
    BitVec.ofNat 16 (max base.toNat 0x1000) = if base.toNat < 0x1000 then 0x1000 else base := by
  apply BitVec.eq_of_toNat_eq
  rw [toNat_faultAddress]
  split
  · rw [show (0x1000 : Word).toNat = 0x1000 from rfl]; omega
  · omega

theorem settle_inRange_of_gt (s u : State) {base : Word} {len : Nat} (h : len ≠ 0 ∧ 0xFFF < base.toNat + (len - 1)) :
    settle s (inRange base len u)
      = .next (s.takeFault (.memoryOutOfRange (if base.toNat < 0x1000 then 0x1000 else base))) := by
  rcases settle_inRange_cases s u base len with ⟨hin, -⟩ | ⟨-, e⟩
  · omega
  · rw [e, faultAddress_eq]

/-- An instruction that is a data access out of range takes the fault 1 with the lowest address out of range. -/
theorem faultTaken_of_dataAccess {i : Instr} {s u : State} {len : Nat}
    (hexec : exec i s = settle s (inRange s.i len u)) (h : len ≠ 0 ∧ 0xFFF < s.i.toNat + (len - 1)) :
    ∃ t, exec i s = .next t ∧ FaultTaken 1 (if s.i.toNat < 0x1000 then 0x1000 else s.i) s t ∧ SameEnv s t :=
  ⟨_, hexec.trans (settle_inRange_of_gt s u h), faultTaken_takeFault s (.memoryOutOfRange _), sameEnv_takeFault s _⟩

theorem exec_ldB_of_le (x : RegIx) {s : State} (h : s.i.toNat ≤ 0xFFD) :
    exec (.ldB x) s
      = .next ({ s with mem := s.mem.store s.i.toNat (decimalDigits (s.reg x)) } : State).advance := by
  rw [exec_ldB, settle_inRange_of_le _ _ (by omega)]

theorem exec_ldMemVx_of_le (x : RegIx) {s : State} (h : s.i.toNat + x.toNat ≤ 0xFFF) :
    exec (.ldMemVx x) s = .next ({ s with mem := s.mem.store s.i.toNat (s.regsUpTo x) } : State).advance := by
  rw [exec_ldMemVx, settle_inRange_of_le _ _ (by omega)]

theorem exec_ldVxMem_of_le (x : RegIx) {s : State} (h : s.i.toNat + x.toNat ≤ 0xFFF) :
    exec (.ldVxMem x) s
      = .next ({ s with v := setRegsFrom s.v 0 (s.mem.load s.i.toNat (x.toNat + 1)) } : State).advance := by
  rw [exec_ldVxMem, settle_inRange_of_le _ _ (by omega)]

/-! ### What a store leaves in memory -/

theorem onlyMem_advance (s : State) (m : Memory) : OnlyMem s ({ s with mem := m } : State).advance :=
  ⟨fun _ _ => rfl, rfl, ⟨rfl, rfl⟩, ⟨rfl, rfl⟩, ⟨rfl, rfl⟩, ⟨rfl, rfl, rfl, rfl, rfl, rfl⟩, ⟨rfl, rfl, rfl, rfl, rfl⟩⟩

theorem decimalDigits_toNat (b : Byte) :
    (decimalDigits b).map BitVec.toNat = [b.toNat / 100, b.toNat / 10 % 10, b.toNat % 10] := by
  have := b.isLt
  simp only [decimalDigits, List.map_cons, List.map_nil, BitVec.toNat_ofNat]
  have hhundreds : b.toNat / 100 % 2 ^ 8 = b.toNat / 100 := Nat.mod_eq_of_lt (by omega)
  have htens : b.toNat / 10 % 10 % 2 ^ 8 = b.toNat / 10 % 10 := Nat.mod_eq_of_lt (by omega)
  have hunits : b.toNat % 10 % 2 ^ 8 = b.toNat % 10 := Nat.mod_eq_of_lt (by omega)
  rw [hhundreds, htens, hunits]

/-- Digit k of the three that Fx33 stored. -/
theorem read_store_digit {m : Memory} (hwf : m.wf = true) {a : Nat} (ha : a ≤ 0xFFD) (b : Byte) {k : Nat} (hk : k < 3) :
    ((m.store a (decimalDigits b)).read (a + k)).toNat = [b.toNat / 100, b.toNat / 10 % 10, b.toNat % 10][k] := by
  have hlen : (decimalDigits b).length = 3 := rfl
  rw [Memory.read_store hwf a _ (by rw [hlen]; unfold Config.addrMax; omega) (hlen ▸ hk)]
  simp only [← decimalDigits_toNat, List.getElem_map]

/-- Byte r of the block that Fx55 stored. -/
theorem read_store_regsUpTo {s : State} (hwf : s.mem.wf = true) {x r : RegIx} (hi : s.i.toNat + x.toNat ≤ 0xFFF)
    (hr : r.toNat ≤ x.toNat) : (s.mem.store s.i.toNat (s.regsUpTo x)).read (s.i.toNat + r.toNat) = s.reg r := by
  have hlen := State.regsUpTo_length s x
  rw [Memory.read_store hwf _ _ (by rw [hlen]; unfold Config.addrMax; omega) (by rw [hlen]; omega),
    State.regsUpTo_getElem s x r]

theorem read_store_regsUpTo_other (s : State) {x : RegIx} {a : Nat} (ha : a < s.i.toNat ∨ s.i.toNat + (x.toNat + 1) ≤ a) :
    (s.mem.store s.i.toNat (s.regsUpTo x)).read a = s.mem.read a :=
  Memory.read_store_other _ _ _ (by rw [State.regsUpTo_length]; exact ha)

/-- Every byte after Fx55 is the one `blockByte` says. -/
theorem read_store_regsUpTo_eq_blockByte {s : State} (hwf : s.mem.wf = true) {x : RegIx}
    (hi : s.i.toNat + x.toNat ≤ 0xFFF) (a : Nat) :
    ((s.mem.store s.i.toNat (s.regsUpTo x)).read a).toNat = blockByte s x a := by
  have hx := x.isLt
  unfold blockByte
  split
  · rename_i h
    have hr : (BitVec.ofNat 4 (a - s.i.toNat)).toNat = a - s.i.toNat := by
      rw [BitVec.toNat_ofNat, Nat.mod_eq_of_lt (by omega)]
    have hread := read_store_regsUpTo hwf (r := BitVec.ofNat 4 (a - s.i.toNat)) hi (by omega)
    rw [hr, Nat.add_sub_cancel' h.1] at hread
    rw [hread]
  · rw [read_store_regsUpTo_other s (by omega)]

/-- Every byte after Fx33 is the one `digitByte` says. -/
theorem read_store_eq_digitByte {s : State} (hwf : s.mem.wf = true) (x : RegIx) (hi : s.i.toNat ≤ 0xFFD) (a : Nat) :
    ((s.mem.store s.i.toNat (decimalDigits (s.reg x))).read a).toNat = digitByte s x a := by
  unfold digitByte
  split_ifs with h0 h1 h2
  · subst h0; exact read_store_digit hwf hi (s.reg x) (k := 0) (by decide)
  · subst h1; exact read_store_digit hwf hi (s.reg x) (k := 1) (by decide)
  · subst h2; exact read_store_digit hwf hi (s.reg x) (k := 2) (by decide)
  · rw [Memory.read_store_other]
    simp only [decimalDigits, List.length_cons, List.length_nil]
    omega

/-- The fetch after an instruction that went on to PC + 2 and left these bytes there. -/
theorem fetch_after_advance {s u : State} (hpc : s.pc.toNat + 2 ≤ 0xFFE) (hu : u.pc = s.pc) :
    ∃ w, fetch u.advance = .ok w
      ∧ w.toNat = (u.mem.read (s.pc.toNat + 2)).toNat * 256 + (u.mem.read (s.pc.toNat + 3)).toNat := by
  have h2 : u.advance.pc.toNat = s.pc.toNat + 2 := by
    rw [State.advance_pc, hu, (toNat_add_two_four (by omega)).1]
  refine ⟨_, fetch_of_le (by omega), ?_⟩
  rw [wordOfBytes_toNat, h2]
  rfl

/-! ### What a load leaves in the registers -/

theorem reg_ldVxMem (s : State) (x r : RegIx) :
    ({ s with v := setRegsFrom s.v 0 (s.mem.load s.i.toNat (x.toNat + 1)) } : State).reg r
      = if r.toNat ≤ x.toNat then s.mem.read (s.i.toNat + r.toNat) else s.reg r := by
  rw [reg_setRegsFrom_zero]
  split
  · rename_i h
    rw [Memory.load_length] at h
    rw [if_pos (by omega), Memory.load_getElem]
  · rename_i h
    rw [Memory.load_length] at h
    rw [if_neg (by omega)]

theorem glyphAddress_toNat_of_le (s : State) {b : Byte} (h : b.toNat ≤ 15) :
    (glyphAddress s b).toNat = Config.fontBase.val + 5 * b.toNat := by
  have := Config.fontBase.isLt
  have hglyph : glyphAddress s b = BitVec.ofNat 16 (Config.fontBase.val + 5 * b.toNat) := if_pos h
  rw [hglyph, BitVec.toNat_ofNat, Nat.mod_eq_of_lt (by omega)]

end Machine

/-! ### The statements of 42_index_memory.md and 20_memory.md -/

/-- Settles O46: the font ends below 0x200, so the sum does not wrap; only I is written, whatever Vx is. -/
theorem glyphAddress : Obligations.GlyphAddress := by
  intro x s
  exact ⟨encodedAs_of_toNat_encode (packXKK_classF_toNat x 0x29), _, exec_ldF x s, glyphAddress_toNat_of_le s,
    retired_advance _, onlyIndex_advance s _⟩

/-- Settles O47: in range each digit lies at its address and a store leaves the rest; out of range the check comes first. -/
theorem decimalDigitsAreStored : Obligations.DecimalDigitsAreStored := by
  intro x s hwf
  refine ⟨encodedAs_of_toNat_encode (packXKK_classF_toNat x 0x33), fun hi => ?_, fun hi => ?_⟩
  · exact ⟨_, exec_ldB_of_le x hi, read_store_digit hwf hi (s.reg x) (k := 0) (by decide),
      read_store_digit hwf hi (s.reg x) (k := 1) (by decide), read_store_digit hwf hi (s.reg x) (k := 2) (by decide),
      fun a ha => Memory.read_store_other _ _ _ ha, retired_advance _, onlyMem_advance s _⟩
  · exact faultTaken_of_dataAccess (exec_ldB x s) (by omega)

/-- Settles O48: byte r of the list stored is Vr. -/
theorem registerBlockIsStored : Obligations.RegisterBlockIsStored := by
  intro x s hwf hi
  exact ⟨encodedAs_of_toNat_encode (packXKK_classF_toNat x 0x55), _, exec_ldMemVx_of_le x hi,
    fun r hr => read_store_regsUpTo hwf hi hr, fun a ha => read_store_regsUpTo_other s ha, retired_advance _,
    onlyMem_advance s _⟩

/-- Settles O49: byte r of the list loaded goes to Vr, and the list ends with Vx. -/
theorem registerBlockIsLoaded : Obligations.RegisterBlockIsLoaded := by
  intro x s hi
  exact ⟨encodedAs_of_toNat_encode (packXKK_classF_toNat x 0x65), _, exec_ldVxMem_of_le x hi,
    fun r hr => (reg_ldVxMem s x r).trans (if_pos hr), fun r hr => (reg_ldVxMem s x r).trans (if_neg (by omega)),
    fun _ => rfl, rfl, ⟨rfl, rfl⟩, ⟨rfl, rfl⟩, ⟨rfl, rfl⟩, ⟨rfl, rfl, rfl, rfl, rfl, rfl⟩, ⟨rfl, rfl, rfl, rfl, rfl⟩,
    retired_advance _⟩

/-- Settles O50: each of the three checks its whole range first. -/
theorem transferOutOfRangeFaults : Obligations.TransferOutOfRangeFaults := by
  intro x y n s
  refine ⟨fun hi => ⟨?_, ?_⟩, fun hn hi => ?_⟩
  · exact faultTaken_of_dataAccess (exec_ldMemVx x s) (by omega)
  · exact faultTaken_of_dataAccess (exec_ldVxMem x s) (by omega)
  · exact faultTaken_of_dataAccess (exec_drw x y n s) ⟨fun h0 => hn (BitVec.eq_of_toNat_eq h0), hi⟩

/-- Settles O51: the two bytes at PC + 2 are read from memory as the store left it. -/
theorem storeIsSeenByTheNextFetch : Obligations.StoreIsSeenByTheNextFetch := by
  intro x s hwf hpc
  constructor
  · intro hi
    obtain ⟨w, hfetch, hw⟩ :=
      fetch_after_advance (u := { s with mem := s.mem.store s.i.toNat (s.regsUpTo x) }) hpc rfl
    rw [read_store_regsUpTo_eq_blockByte hwf hi, read_store_regsUpTo_eq_blockByte hwf hi] at hw
    exact ⟨_, w, exec_ldMemVx_of_le x hi, hfetch, hw⟩
  · intro hi
    obtain ⟨w, hfetch, hw⟩ :=
      fetch_after_advance (u := { s with mem := s.mem.store s.i.toNat (decimalDigits (s.reg x)) }) hpc rfl
    rw [read_store_eq_digitByte hwf x hi, read_store_eq_digitByte hwf x hi] at hw
    exact ⟨_, w, exec_ldB_of_le x hi, hfetch, hw⟩

end Sys2Proof

/-! PROOFS. Drawing: the loop over the bits of a sprite against the pixel-wise formula of 43_display.md R172. -/

namespace Sys2Proof

open Machine

namespace Machine

/-! ### The drawing loop over bits that fall on distinct pixels -/

/-- The two bits fall on different pixels. -/
def SpriteBit.Apart (p q : SpriteBit) : Prop := ¬(p.y = q.y ∧ p.x = q.x)

/-- Some bit 1 of the list falls on the pixel. -/
def HitBy (ps : List SpriteBit) (y : Fin 32) (x : Fin 64) : Prop := ∃ p ∈ ps, p.y = y ∧ p.x = x ∧ p.bit = true

theorem hitBy_cons (p : SpriteBit) (ps : List SpriteBit) (y : Fin 32) (x : Fin 64) :
    HitBy (p :: ps) y x ↔ (p.y = y ∧ p.x = x ∧ p.bit = true) ∨ HitBy ps y x := by
  simp only [HitBy, List.exists_mem_cons_iff]

theorem not_hitBy_of_apart {p : SpriteBit} {ps : List SpriteBit} (h : ∀ q ∈ ps, p.Apart q) : ¬HitBy ps p.y p.x :=
  fun ⟨q, hq, hy, hx, _⟩ => h q hq ⟨hy.symm, hx.symm⟩

/-- A pixel differs after the loop exactly when a bit 1 falls on it. -/
theorem pixel_foldl_drawBit {ps : List SpriteBit} (hps : ps.Pairwise SpriteBit.Apart) (acc : Framebuffer × Bool)
    (y : Fin 32) (x : Fin 64) :
    pixel (ps.foldl drawBit acc).1 y x ≠ pixel acc.1 y x ↔ HitBy ps y x := by
  induction hps generalizing acc with
  | nil => simp [HitBy]
  | @cons p ps hp _ ih =>
    rw [List.foldl_cons, hitBy_cons]
    have hih := ih (drawBit acc p)
    rw [pixel_drawBit] at hih
    by_cases hpix : p.y = y ∧ p.x = x
    · obtain ⟨rfl, rfl⟩ := hpix
      have hrest : ¬HitBy ps p.y p.x := not_hitBy_of_apart hp
      rw [iff_false_right hrest, not_not] at hih
      rw [hih]
      cases pixel acc.1 p.y p.x <;> cases p.bit <;> simp [hrest]
    · rw [decide_eq_false hpix, Bool.false_and, Bool.xor_false] at hih
      rw [hih]
      exact ⟨.inr, fun h => h.resolve_left fun ⟨hy, hx, _⟩ => hpix ⟨hy, hx⟩⟩

/-- A pixel is set before and unset after one bit exactly when it was set and the bit is 1. -/
theorem collides_xor (old bit : Bool) : collides old (old ^^ bit) = (old && bit) := by
  cases old <;> cases bit <;> rfl

/-- The loop reports a collision exactly when a bit 1 falls on a pixel that was set before the loop. -/
theorem foldl_drawBit_collision {ps : List SpriteBit} (hps : ps.Pairwise SpriteBit.Apart) (acc : Framebuffer × Bool) :
    (ps.foldl drawBit acc).2 = true ↔ acc.2 = true ∨ ∃ p ∈ ps, pixel acc.1 p.y p.x = true ∧ p.bit = true := by
  induction hps generalizing acc with
  | nil => simp
  | @cons p ps hp _ ih =>
    have hfirst : (drawBit acc p).2 = true ↔ acc.2 = true ∨ (pixel acc.1 p.y p.x = true ∧ p.bit = true) := by
      simp only [drawBit, collides_xor, Bool.or_eq_true, Bool.and_eq_true]
    have hrest : ∀ q ∈ ps, pixel (drawBit acc p).1 q.y q.x = pixel acc.1 q.y q.x := fun q hq => by
      rw [pixel_drawBit, decide_eq_false (hp q hq), Bool.false_and, Bool.xor_false]
    rw [List.foldl_cons, ih, hfirst, List.exists_mem_cons_iff, or_assoc]
    have hset : (∃ q ∈ ps, pixel (drawBit acc p).1 q.y q.x = true ∧ q.bit = true)
        ↔ ∃ q ∈ ps, pixel acc.1 q.y q.x = true ∧ q.bit = true :=
      exists_congr fun q => and_congr_right fun hq => by rw [hrest q hq]
    rw [hset]

/-! ### The bits of a sprite -/

theorem mem_spriteBits {x0 : Nat} {rows : List Byte} {y : Nat} {p : SpriteBit} :
    p ∈ spriteBits x0 y rows
      ↔ ∃ (r : Nat) (h : r < rows.length) (c : Nat), c < 8 ∧ p = spriteBit x0 (y + r) rows[r] c := by
  induction rows generalizing y with
  | nil => simp [spriteBits]
  | cons row rows ih =>
    rw [spriteBits, List.mem_append, ih]
    constructor
    · rintro (hrow | ⟨r, hr, c, hc, rfl⟩)
      · obtain ⟨c, hc, rfl⟩ := List.mem_map.mp hrow
        exact ⟨0, Nat.succ_pos _, c, List.mem_range.mp hc, rfl⟩
      · exact ⟨r + 1, Nat.succ_lt_succ hr, c, hc, by rw [Nat.add_right_comm, Nat.add_assoc]; rfl⟩
    · rintro ⟨r, hr, c, hc, rfl⟩
      cases r with
      | zero => exact .inl (List.mem_map.mpr ⟨c, List.mem_range.mpr hc, rfl⟩)
      | succ r => exact .inr ⟨r, Nat.lt_of_succ_lt_succ hr, c, hc, by rw [Nat.add_right_comm, Nat.add_assoc]; rfl⟩

theorem spriteRow_apart (x0 y : Nat) (row : Byte) : (spriteRow x0 y row).Pairwise SpriteBit.Apart := by
  rw [spriteRow, List.pairwise_map]
  refine List.pairwise_lt_range.imp_of_mem fun {c c'} hc hc' hlt hsame => ?_
  have hx : (x0 + c) % 64 = (x0 + c') % 64 := congrArg Fin.val hsame.2
  rw [List.mem_range] at hc hc'
  omega

/-- The 8 columns of a row are distinct modulo 64, and up to 32 rows are distinct modulo 32. -/
theorem spriteBits_apart (x0 y : Nat) {rows : List Byte} (h : rows.length ≤ 32) :
    (spriteBits x0 y rows).Pairwise SpriteBit.Apart := by
  induction rows generalizing y with
  | nil => exact List.Pairwise.nil
  | cons row rows ih =>
    rw [List.length_cons] at h
    refine List.pairwise_append.mpr ⟨spriteRow_apart x0 y row, ih (y + 1) (by omega), fun p hp q hq hsame => ?_⟩
    obtain ⟨c, -, rfl⟩ := List.mem_map.mp hp
    obtain ⟨r, hr, c', -, rfl⟩ := mem_spriteBits.mp hq
    have hy : y % 32 = (y + 1 + r) % 32 := congrArg Fin.val hsame.1
    omega

/-! ### The pixel-wise formula -/

theorem columnFrom_eq_iff {x0 c : Nat} (hc : c < 64) (px : Fin 64) : columnFrom x0 px = c ↔ (x0 + c) % 64 = px.val := by
  have := px.isLt
  unfold columnFrom
  omega

theorem rowFrom_eq_iff {y0 r : Nat} (hr : r < 32) (py : Fin 32) : rowFrom y0 py = r ↔ (y0 + r) % 32 = py.val := by
  have := py.isLt
  unfold rowFrom
  omega

theorem spriteOf_apart (s : State) (x y : RegIx) (n : BitVec 4) : (spriteOf s x y n).Pairwise SpriteBit.Apart := by
  have := n.isLt
  exact spriteBits_apart _ _ (by rw [Memory.load_length]; omega)

/-- The bit 1 that falls on a pixel is the one the distances of the pixel from (Vx, Vy) name. -/
theorem hitBy_spriteOf (s : State) (x y : RegIx) (n : BitVec 4) (py : Fin 32) (px : Fin 64) :
    HitBy (spriteOf s x y n) py px ↔ spriteHits s x y n py px = true := by
  have hn := n.isLt
  simp only [spriteHits, Bool.and_eq_true, decide_eq_true_eq]
  constructor
  · rintro ⟨p, hp, hy, hx, hbit⟩
    obtain ⟨r, hr, c, hc, rfl⟩ := mem_spriteBits.mp hp
    rw [Memory.load_length] at hr
    have hrow : rowFrom (s.reg y).toNat py = r := (rowFrom_eq_iff (by omega) py).mpr (congrArg Fin.val hy)
    have hcol : columnFrom (s.reg x).toNat px = c := (columnFrom_eq_iff (by omega) px).mpr (congrArg Fin.val hx)
    simp only [spriteBit, Memory.load_getElem] at hbit
    rw [hrow, hcol]
    exact ⟨⟨hc, hr⟩, hbit⟩
  · rintro ⟨⟨hc, hr⟩, hbit⟩
    have hlen : rowFrom (s.reg y).toNat py < (s.mem.load s.i.toNat n.toNat).length := by rw [Memory.load_length]; exact hr
    refine ⟨_, mem_spriteBits.mpr ⟨_, hlen, _, hc, rfl⟩, Fin.ext ?_, Fin.ext ?_, ?_⟩
    · exact (rowFrom_eq_iff (by omega) py).mp rfl
    · exact (columnFrom_eq_iff (by omega) px).mp rfl
    · simp only [spriteBit, Memory.load_getElem]
      exact hbit

/-! ### Dxyn in range -/

theorem exec_drw_of_le (x y : RegIx) {n : BitVec 4} {s : State} (h : n = 0 ∨ s.i.toNat + (n.toNat - 1) ≤ 0xFFF) :
    exec (.drw x y n) s = .next (s.drawn x y n).advance := by
  have hrange : n.toNat = 0 ∨ s.i.toNat + (n.toNat - 1) ≤ 0xFFF := h.imp_left (congrArg BitVec.toNat)
  rw [exec_drw, settle_inRange_of_le _ _ hrange]

theorem eq_xor_of_ne_iff : ∀ {new old hit : Bool}, (new ≠ old ↔ hit = true) → new = (old ^^ hit) := by
  decide

theorem pixel_drawn (s : State) (x y : RegIx) (n : BitVec 4) (py : Fin 32) (px : Fin 64) :
    pixel (s.drawn x y n).fb py px = (pixel s.fb py px ^^ spriteHits s x y n py px) := by
  have hloop := pixel_foldl_drawBit (spriteOf_apart s x y n) (s.fb, false) py px
  rw [hitBy_spriteOf] at hloop
  have hfb : pixel (s.drawn x y n).fb py px = pixel ((spriteOf s x y n).foldl drawBit (s.fb, false)).1 py px := rfl
  rw [hfb, eq_xor_of_ne_iff hloop]

/-- A set pixel was unset by the drawing exactly when the loop reported a collision. -/
theorem drawn_collision (s : State) (x y : RegIx) (n : BitVec 4) :
    (drawBits s.fb (spriteOf s x y n)).2 = true
      ↔ ∃ py px, pixel s.fb py px = true ∧ pixel (s.drawn x y n).fb py px = false := by
  have hloop := foldl_drawBit_collision (spriteOf_apart s x y n) (s.fb, false)
  rw [drawBits, hloop]
  simp only [Bool.false_eq_true, false_or, pixel_drawn]
  constructor
  · rintro ⟨p, hp, hset, hbit⟩
    have hhit : spriteHits s x y n p.y p.x = true := (hitBy_spriteOf s x y n p.y p.x).mp ⟨p, hp, rfl, rfl, hbit⟩
    exact ⟨p.y, p.x, hset, by rw [hset, hhit]; rfl⟩
  · rintro ⟨py, px, hset, hunset⟩
    rw [hset, Bool.true_xor, Bool.not_eq_false'] at hunset
    obtain ⟨p, hp, rfl, rfl, hbit⟩ := (hitBy_spriteOf s x y n py px).mpr hunset
    exact ⟨p, hp, hset, hbit⟩

theorem reg_drawn_vf (s : State) (x y : RegIx) (n : BitVec 4) :
    (s.drawn x y n).reg 15 = flagByte (drawBits s.fb (spriteOf s x y n)).2 :=
  reg_setVF_same _ _

theorem onlyScreen_drawn (s : State) (x y : RegIx) (n : BitVec 4) : OnlyScreen [15] s (s.drawn x y n).advance := by
  have hframe := completedFrame_drawn s x y n
  exact ⟨fun r hr => reg_setVF_other _ _ (List.ne_of_not_mem_cons hr), fun _ => rfl, rfl, ⟨rfl, rfl⟩, ⟨rfl, rfl⟩,
    hframe.status, hframe.env⟩

end Machine

/-! ### The statements of 43_display.md -/

/-- Settles O53: at most 15 rows of 8 columns fall on distinct pixels, so each pixel is XORed with at most one bit 1. -/
theorem drawXorsTheSprite : Obligations.DrawXorsTheSprite := by
  intro x y n s
  refine ⟨encodedAs_of_toNat_encode (packXYN_toNat 0xD x y n), fun hrange => ?_⟩
  refine ⟨_, exec_drw_of_le x y hrange, pixel_drawn s x y n, fun hcol => ?_, fun hcol => ?_, rfl, retired_advance _,
    onlyScreen_drawn s x y n⟩
  · rw [State.reg_advance, reg_drawn_vf, (drawn_collision s x y n).mpr hcol]
    rfl
  · rw [State.reg_advance, reg_drawn_vf, Bool.eq_false_iff.mpr (mt (drawn_collision s x y n).mp hcol)]
    rfl

/-- With x and y other than F, the second draw sees the same sprite at the same place. -/
theorem spriteHits_drawn (s : State) {x y : RegIx} (n : BitVec 4) (hx : x ≠ 15) (hy : y ≠ 15) :
    spriteHits (s.drawn x y n).advance x y n = spriteHits s x y n := by
  have hrx : (s.drawn x y n).advance.reg x = s.reg x := reg_setVF_other _ _ hx
  have hry : (s.drawn x y n).advance.reg y = s.reg y := reg_setVF_other _ _ hy
  funext py px
  simp only [spriteHits, hrx, hry]
  rfl

/-- Settles O54: XOR twice with the same bits is the identity, so the second draw unsets just the pixels that the first
one set. -/
theorem drawingTwiceRestoresTheScreen : Obligations.DrawingTwiceRestoresTheScreen := by
  intro x y n s hx hy hrange
  obtain ⟨-, hdraw⟩ := drawXorsTheSprite x y n s
  obtain ⟨t, ht, hpix, -⟩ := hdraw hrange
  cases (exec_drw_of_le x y hrange).symm.trans ht
  obtain ⟨-, hdraw'⟩ := drawXorsTheSprite x y n (s.drawn x y n).advance
  obtain ⟨u, hu, hpix', hcol, hnocol, -⟩ := hdraw' hrange
  have hback : ∀ py px, pixel u.fb py px = pixel s.fb py px := fun py px => by
    rw [hpix', hpix, spriteHits_drawn s n hx hy, Bool.xor_assoc, Bool.xor_self, Bool.xor_false]
  have hiff : ∀ py px, (pixel (s.drawn x y n).advance.fb py px = true ∧ pixel u.fb py px = false)
      ↔ (spriteHits s x y n py px = true ∧ pixel s.fb py px = false) := fun py px => by
    rw [hback, hpix]
    cases pixel s.fb py px <;> simp
  simp only [hiff] at hcol hnocol
  exact ⟨_, u, ht, hu, hback, hcol, hnocol⟩

end Sys2Proof
